-- ==== Sys2Proof/Word.lean ====
section
/-! DEFINITION. Word.lean: the widths of the DSHOT Frame Decoder's values, each under the spec's own name
(spec/00_scope.md R8 to R10, spec/10_state.md R23 and R30, spec/30_encoding.md R70 to R73 and R80).
Every value of the block is an unsigned integer of a stated width (R10), hence a bit vector; a timestamp
is opaque, never computed on and of the open width TS_W, hence a plain number (log entry 4). -/

namespace Sys2Proof

/-- One byte of the capture buffer (R23). -/
abbrev Byte := BitVec 8

/-- F_CAP, the 48-bit oversampled capture `raw48` (R70), and `in_data` (R23). -/
abbrev Capture := BitVec 48

/-- The 49-bit working value `v` (R102). -/
abbrev Working := BitVec 49

/-- F_WORD, the 16-bit DecodedWord (R73). -/
abbrev Word := BitVec 16

/-- F_LEN, the 8-bit byte count `in_len` (R72; `LEN_W` of R9). -/
abbrev Length := BitVec 8

/-- F_HS, the handshake vector (R86). -/
abbrev Handshake := BitVec 4

/-- A checksum, transmitted or recomputed (R73, R124). -/
abbrev Crc := BitVec 4

/-- `word >> 4`: the data and telemetry bits together (R121). -/
abbrev DataField := BitVec 12

/-- The 11-bit data value (R123). -/
abbrev Data := BitVec 11

/-- The 6-bit command code (R142). -/
abbrev Code := BitVec 6

/-- The 11-bit throttle value (R143). -/
abbrev Value := BitVec 11

/-- The 25-bit product `value * 10000` (R144). -/
abbrev Numerator := BitVec 25

/-- A 14-bit centi-percent (`PCT_W` of R9; R83). -/
abbrev Pct := BitVec 14

/-- The 11-bit remainder of the percent division (R83). -/
abbrev PctRem := BitVec 11

/-- A timestamp: an opaque number, passed through and never computed on (R151, R208); its width is the
build parameter TS_W (log entry 4). -/
abbrev Timestamp := Nat

end Sys2Proof
end

