-- ==== Sys2Proof/Config.lean ====
section
/-! DEFINITION. Config.lean: the constants the source fixes (spec/00_scope.md R8), which no state can
change, and the block's two build parameters (R9), which the model takes as data (log entry 3). -/

namespace Sys2Proof
namespace Config

/-- `N_BYTES`: the one legal byte count of a capture (R8, R72). -/
abbrev nBytes : Length := 6

/-- `OVERSAMPLE`: samples per logical bit, the size of one window (R8). -/
abbrev oversample : Nat := 3

/-- `N_BITS`: logical bits of a frame, the iterations of the decimation (R8). -/
abbrev nBits : Nat := 16

/-- `TAP`: the bit position tested in each window (R8). -/
abbrev tap : Nat := 1

/-- `CMD_MAX`: the largest data value that is a command (R8). -/
abbrev cmdMax : Nat := 47

/-- `THR_OFFSET`: subtracted from a throttle's data (R8). -/
abbrev thrOffset : Nat := 48

/-- `THR_DEN`: the full-scale throttle value (R8). -/
abbrev thrDen : Nat := 1999

/-- The percent is in centi-percent: `value * 100 / 1999` is scaled by a further 100 (R144). -/
abbrev pctScale : Nat := 10000

/-- `PCT_ROUND` (R9, R145). -/
inductive PctRound where
  | trunc
  | nearest
  deriving DecidableEq, Repr

/-- The build parameters (R9): fixed when the block is built, written by no operation (R20). -/
structure Params where
  /-- `TS_W`, the width of each timestamp port and register in bits: open. -/
  tsW : Nat
  /-- `PCT_ROUND`. -/
  pctRound : PctRound
  deriving DecidableEq, Repr

/-- The values R9 names: reference width 64, default rounding `TRUNC`. -/
def Params.reference : Params := { tsW := 64, pctRound := .trunc }

end Config
end Sys2Proof
end

