-- ==== Sys2Proof/Syntax.lean ====
section
/-! DEFINITION. Syntax.lean: the block's operations, one constructor of `Instr` per row of
spec/opcode_table.json, and the formats they are selected from (spec/30_encoding.md R70 to R86).
The block is not a processor: an "instruction" here is one of its operations (spec/00_scope.md R2).
A constructor carries the bits its row's pattern leaves free (log entry 12). -/

namespace Sys2Proof

/-- The block's operations. -/
inductive Instr where
  /-- DEC_DISARMED `00000000000tcccc` (R141). -/
  | decDisarmed (tlm : Bool) (crc : Crc)
  /-- DEC_COMMAND, its six patterns of R85: data 1..47 (R142). -/
  | decCommand (data : Data) (tlm : Bool) (crc : Crc)
  /-- DEC_THROTTLE, its six patterns of R85: data 48..2047 (R143). -/
  | decThrottle (data : Data) (tlm : Bool) (crc : Crc)
  /-- DEC_LENERR: any F_LEN value but 6 (R201). -/
  | decLenerr (len : Length)
  /-- RESET `1xxx` (R230). -/
  | reset (inValid valid outReady : Bool)
  /-- IDLE `000x` (R175). -/
  | idle (outReady : Bool)
  /-- HOLD `0010` (R174). -/
  | hold
  /-- RETIRE `0011` (R173). -/
  | retire
  /-- ACCEPT `010x` (R171). -/
  | accept (outReady : Bool)
  /-- STALL `0110` (R176). -/
  | stall
  /-- ACCEPT_RETIRE `0111` (R172). -/
  | acceptRetire
  /-- ASSEMBLE: byte assembly (R100). -/
  | assemble
  /-- POLARITY: polarity correction (R101). -/
  | polarity
  /-- ALIGN: synthetic start bit (R102). -/
  | align
  /-- DECIMATE: 3:1 decimation with a fixed tap (R103). -/
  | decimate
  /-- EXTRACT_CRC: the transmitted checksum (R120). -/
  | extractCrc
  /-- EXTRACT_DF: the data-and-telemetry field (R121). -/
  | extractDf
  /-- EXTRACT_TLM: the telemetry request bit (R122). -/
  | extractTlm
  /-- EXTRACT_DATA: the 11-bit data value (R123). -/
  | extractData
  /-- CRC4: checksum recomputation (R124). -/
  | crc4
  /-- CRC_VERDICT: pass or fail (R126). -/
  | crcVerdict
  /-- CLASSIFY: choice of kind (R140). -/
  | classify
  /-- SCALE: fixed-point percent (R144). -/
  | scale
  /-- FORM_RECORD: the output record of the decode path (R151). -/
  | formRecord
  deriving DecidableEq, Repr

/-- A value of one of the five formats (spec/30_encoding.md). F_REC's row selects "any record", so no
bits of it matter to the selection and none are carried. -/
inductive Form where
  | fCap (v : Capture)
  | fLen (v : Length)
  | fWord (v : Word)
  | fRec
  | fHs (v : Handshake)
  deriving DecidableEq, Repr

end Sys2Proof
end

