-- ==== Sys2Proof/WellFormed.lean ====
section
/-! DEFINITION. WellFormed.lean: which terms of `Instr` some input of the block selects: the operand
ranges of spec/30_encoding.md R84 (the patterns of R85 leave no other data to these rows). -/

namespace Sys2Proof

/-- The operand is in the range R84 gives the operation; every other constructor has no illegal operand
(R87). -/
def Instr.wellFormed : Instr → Bool
  | .decCommand data _ _ => 1 ≤ data.toNat && data.toNat ≤ Config.cmdMax
  | .decThrottle data _ _ => Config.thrOffset ≤ data.toNat
  | .decLenerr len => len != Config.nBytes
  | .decDisarmed _ _ => true
  | .reset _ _ _ => true
  | .idle _ => true
  | .hold => true
  | .retire => true
  | .accept _ => true
  | .stall => true
  | .acceptRetire => true
  | .assemble => true
  | .polarity => true
  | .align => true
  | .decimate => true
  | .extractCrc => true
  | .extractDf => true
  | .extractTlm => true
  | .extractData => true
  | .crc4 => true
  | .crcVerdict => true
  | .classify => true
  | .scale => true
  | .formRecord => true

end Sys2Proof
end

