-- ==== Sys2Proof/Decode.lean ====
section
/-! DEFINITION. Decode.lean: which operation a value of a format selects (spec/30_encoding.md R72, R84, R86),
the pipeline stages every value of a format passes through (the mask-0 rows of spec/opcode_table.json),
the encoder, the rows of the opcode table as masks and matches (R85, R86), and the canonical capture of a word
(spec/40_bit_recovery.md R107). -/

namespace Sys2Proof

/-- Why a value selects no operation by bits of its own. No value of F_CAP, F_WORD or F_HS is illegal
(R75, R87), so these are the only cases. -/
inductive DecodeError where
  /-- F_LEN 6 is no operation: it selects the decode path (R72, R84). Safe: nothing runs in its place. -/
  | lengthSelectsDecodePath
  /-- An F_CAP or F_REC value passes through its stages (mask 0) and selects nothing by its bits. Safe. -/
  | noSelectingBits
  /-- The host's question names a width no format of the table has. Safe. -/
  | noSuchWidth (nbits : Nat)
  /-- The value does not fit the width named. Safe. -/
  | tooWide (nbits : Nat)
  deriving DecidableEq, Repr

/-- `data = word[15:5]` (R73). -/
def wordData (w : Word) : Data := w.extractLsb' 5 11

/-- `telemetry_request = word[4]` (R73). -/
def wordTlm (w : Word) : Bool := w.getLsbD 4

/-- `crc = word[3:0]` (R73). -/
def wordCrc (w : Word) : Crc := w.extractLsb' 0 4

/-- `word = dddddddddddtcccc` (R73). -/
def mkWord (data : Data) (tlm : Bool) (crc : Crc) : Word :=
  (data.setWidth 16 <<< 5) ||| ((BitVec.ofBool tlm).setWidth 16 <<< 4) ||| crc.setWidth 16

/-- The decode operation a word selects, in the priority order of R84 items 2 to 4. -/
def decodeWord (w : Word) : Instr :=
  if wordData w = 0 then .decDisarmed (wordTlm w) (wordCrc w)
  else if (wordData w).toNat ≤ Config.cmdMax then .decCommand (wordData w) (wordTlm w) (wordCrc w)
  else .decThrottle (wordData w) (wordTlm w) (wordCrc w)

/-- The operation an `in_len` selects (R72, R84 item 1). -/
def decodeLen (len : Length) : Except DecodeError Instr :=
  if len = Config.nBytes then .error .lengthSelectsDecodePath else .ok (.decLenerr len)

/-- The transaction operation `hs = {rst, in_valid, R.VALID, out_ready}` selects (R86). -/
def decodeHs (hs : Handshake) : Instr :=
  match hs.getLsbD 3, hs.getLsbD 2, hs.getLsbD 1, hs.getLsbD 0 with
  | true, inValid, valid, outReady => .reset inValid valid outReady
  | false, false, false, outReady => .idle outReady
  | false, false, true, false => .hold
  | false, false, true, true => .retire
  | false, true, false, outReady => .accept outReady
  | false, true, true, false => .stall
  | false, true, true, true => .acceptRetire

/-- The decoder: total, the operation a value selects by bits of its own, or why it selects none. -/
def decode : Form → Except DecodeError Instr
  | .fHs hs => .ok (decodeHs hs)
  | .fLen len => decodeLen len
  | .fWord w => .ok (decodeWord w)
  | .fCap _ => .error .noSelectingBits
  | .fRec => .error .noSelectingBits

/-- The pipeline stages every value of a format passes through, in the order of spec/42_classifier.md R152:
the rows of the table whose mask is 0. F_WORD's classifying operation stands between CLASSIFY and SCALE. -/
def stagesBefore : Form → List Instr
  | .fCap _ => [.assemble, .polarity, .align, .decimate]
  | .fWord _ => [.extractCrc, .extractDf, .extractTlm, .extractData, .crc4, .crcVerdict, .classify]
  | .fRec => [.formRecord]
  | .fLen _ => []
  | .fHs _ => []

/-- The stages that follow the operation a word selects: SCALE is applied to every frame (its table row),
and reads the throttle value that operation set. -/
def stagesAfter : Form → List Instr
  | .fWord _ => [.scale]
  | .fCap _ => []
  | .fRec => []
  | .fLen _ => []
  | .fHs _ => []

/-- Every operation whose row a value of a format matches, in the order they run. -/
def program (f : Form) : List Instr :=
  stagesBefore f ++ (match decode f with | .ok i => [i] | .error _ => []) ++ stagesAfter f

/-- The operations a value selects by bits of its own; the others are the table's mask-0 rows, which every
value of their format passes through. -/
def Instr.selectedByBits : Instr → Bool
  | .decDisarmed _ _ => true
  | .decCommand _ _ _ => true
  | .decThrottle _ _ _ => true
  | .decLenerr _ => true
  | .reset _ _ _ => true
  | .idle _ => true
  | .hold => true
  | .retire => true
  | .accept _ => true
  | .stall => true
  | .acceptRetire => true
  | .assemble => false
  | .polarity => false
  | .align => false
  | .decimate => false
  | .extractCrc => false
  | .extractDf => false
  | .extractTlm => false
  | .extractData => false
  | .crc4 => false
  | .crcVerdict => false
  | .classify => false
  | .scale => false
  | .formRecord => false

/-- The form an operation is selected from, with the bits of its pattern; the bits a mask-0 row leaves
free are all 0. -/
def encode : Instr → Form
  | .decDisarmed tlm crc => .fWord (mkWord 0 tlm crc)
  | .decCommand data tlm crc => .fWord (mkWord data tlm crc)
  | .decThrottle data tlm crc => .fWord (mkWord data tlm crc)
  | .decLenerr len => .fLen len
  | .reset inValid valid outReady =>
      .fHs (1#1 ++ BitVec.ofBool inValid ++ BitVec.ofBool valid ++ BitVec.ofBool outReady)
  | .idle outReady => .fHs (0b000#3 ++ BitVec.ofBool outReady)
  | .hold => .fHs 0b0010
  | .retire => .fHs 0b0011
  | .accept outReady => .fHs (0b010#3 ++ BitVec.ofBool outReady)
  | .stall => .fHs 0b0110
  | .acceptRetire => .fHs 0b0111
  | .assemble => .fCap 0
  | .polarity => .fCap 0
  | .align => .fCap 0
  | .decimate => .fCap 0
  | .extractCrc => .fWord 0
  | .extractDf => .fWord 0
  | .extractTlm => .fWord 0
  | .extractData => .fWord 0
  | .crc4 => .fWord 0
  | .crcVerdict => .fWord 0
  | .classify => .fWord 0
  | .scale => .fWord 0
  | .formRecord => .fRec

/-! ### The opcode table's rows -/

/-- One pattern over F_WORD (R85). -/
structure WordRow where
  mask : Word
  pattern : Word
  deriving DecidableEq, Repr

/-- `(word & mask) == match` (R85). -/
def WordRow.accepts (row : WordRow) (w : Word) : Bool := w &&& row.mask == row.pattern

/-- DEC_DISARMED's row of R85. -/
def disarmedRows : List WordRow := [⟨0xFFE0, 0x0000⟩]

/-- DEC_COMMAND's rows of R85. -/
def commandRows : List WordRow :=
  [⟨0xFFE0, 0x0020⟩, ⟨0xFFC0, 0x0040⟩, ⟨0xFF80, 0x0080⟩, ⟨0xFF00, 0x0100⟩, ⟨0xFE00, 0x0200⟩, ⟨0xFE00, 0x0400⟩]

/-- DEC_THROTTLE's rows of R85. -/
def throttleRows : List WordRow :=
  [⟨0xFE00, 0x0600⟩, ⟨0xF800, 0x0800⟩, ⟨0xF000, 0x1000⟩, ⟨0xE000, 0x2000⟩, ⟨0xC000, 0x4000⟩, ⟨0x8000, 0x8000⟩]

/-- How many rows of R85 a word matches. -/
def wordRowCount (w : Word) : Nat :=
  ((disarmedRows ++ commandRows ++ throttleRows).filter (·.accepts w)).length

/-- The word matches a row of the list. -/
def anyRow (rows : List WordRow) (w : Word) : Bool := rows.any (·.accepts w)

/-- `(hs & mask) == match` (R86). -/
def hsAccepts (mask pattern hs : Handshake) : Bool := hs &&& mask == pattern

/-- The form is of F_WORD, and its word passes the test. -/
def Form.wordIs (p : Word → Bool) : Form → Bool
  | .fWord w => p w
  | .fCap _ => false
  | .fLen _ => false
  | .fRec => false
  | .fHs _ => false

/-- The form is of F_HS, and `(hs & mask) == match`. -/
def Form.hsIs (mask pattern : Handshake) : Form → Bool
  | .fHs hs => hsAccepts mask pattern hs
  | .fCap _ => false
  | .fLen _ => false
  | .fWord _ => false
  | .fRec => false

/-- The form is of F_LEN, and its length passes the test. -/
def Form.lenIs (p : Length → Bool) : Form → Bool
  | .fLen len => p len
  | .fCap _ => false
  | .fWord _ => false
  | .fRec => false
  | .fHs _ => false

/-- The form is of F_CAP: a mask-0 row accepts every value. -/
def Form.isCap : Form → Bool
  | .fCap _ => true
  | .fLen _ => false
  | .fWord _ => false
  | .fRec => false
  | .fHs _ => false

/-- The form is of F_REC: "any record". -/
def Form.isRec : Form → Bool
  | .fRec => true
  | .fCap _ => false
  | .fLen _ => false
  | .fWord _ => false
  | .fHs _ => false

/-- The form matches the operation's own row of spec/opcode_table.json. -/
def rowAccepts (i : Instr) (f : Form) : Bool :=
  match i with
  | .decDisarmed _ _ => f.wordIs (anyRow disarmedRows)
  | .decCommand _ _ _ => f.wordIs (anyRow commandRows)
  | .decThrottle _ _ _ => f.wordIs (anyRow throttleRows)
  | .decLenerr _ => f.lenIs (fun len => len &&& 0xFF != 0x06)
  | .reset _ _ _ => f.hsIs 0x8 0x8
  | .idle _ => f.hsIs 0xE 0x0
  | .hold => f.hsIs 0xF 0x2
  | .retire => f.hsIs 0xF 0x3
  | .accept _ => f.hsIs 0xE 0x4
  | .stall => f.hsIs 0xF 0x6
  | .acceptRetire => f.hsIs 0xF 0x7
  | .assemble => f.isCap
  | .polarity => f.isCap
  | .align => f.isCap
  | .decimate => f.isCap
  | .extractCrc => f.wordIs (fun _ => true)
  | .extractDf => f.wordIs (fun _ => true)
  | .extractTlm => f.wordIs (fun _ => true)
  | .extractData => f.wordIs (fun _ => true)
  | .crc4 => f.wordIs (fun _ => true)
  | .crcVerdict => f.wordIs (fun _ => true)
  | .classify => f.wordIs (fun _ => true)
  | .scale => f.wordIs (fun _ => true)
  | .formRecord => f.isRec

/-! ### The canonical capture of a word -/

/-- Bit `k` of `FRAME(w, fill)` (R107). -/
def frameBit (w : Word) (fill : Bool) (k : Nat) : Bool :=
  if k % Config.oversample = 0 then !w.getLsbD (15 - k / Config.oversample) else fill

/-- The low `n` bits of `FRAME(w, fill)`. -/
def frameBits (w : Word) (fill : Bool) : Nat → Capture
  | 0 => 0
  | k + 1 => frameBits w fill k ||| ((BitVec.ofBool (frameBit w fill k)).setWidth 48 <<< k)

/-- `FRAME(w, fill)`: a test bench's encoder, not an operation of the block (R107). -/
def frame (w : Word) (fill : Bool) : Capture := frameBits w fill 48

/-! ### The host's question about a table row -/

/-- The form a word of the table's numbering stands for. The widths of the formats tell them apart, but for
F_HS (4 bits, one byte with the upper half 0) and F_LEN (8 bits): a byte below 16 is read as F_HS (log entry 10). -/
def formOf (nbits w : Nat) : Except DecodeError Form :=
  if 2 ^ nbits ≤ w then .error (.tooWide nbits)
  else if nbits = 48 then .ok (.fCap (BitVec.ofNat 48 w))
  else if nbits = 16 then .ok (.fWord (BitVec.ofNat 16 w))
  else if nbits = 8 ∧ 16 ≤ w then .ok (.fLen (BitVec.ofNat 8 w))
  else if nbits = 8 ∨ nbits = 4 then .ok (.fHs (BitVec.ofNat 4 w))
  else .error (.noSuchWidth nbits)

/-- The operation the decoder reads from a word of the table: the one its bits select, else the first stage
a value of that format passes through. -/
def decodeTableWord (nbits w : Nat) : Option Instr :=
  match formOf nbits w with
  | .error _ => none
  | .ok f => (match decode f with
    | .ok i => some i
    | .error _ => (program f).head?)

end Sys2Proof
end

