-- ==== Sys2Proof/Machine/State.lean ====
section
/-! DEFINITION. Machine/State.lean: the state. The block's whole architectural state is the output register R
(spec/10_state.md R30, R32). Beside it stand the build parameters (R9), the input ports (R22 to R24), the stimulus
that will drive them (spec/30_encoding.md R89), and the combinational intermediate values of the decode
(spec/40_bit_recovery.md to spec/42_classifier.md), which are the model's own fields: they carry no state
of the block from one edge to the next (log entries 2, 3 and 5). There is no memory and no program
counter (R20, R50). -/

namespace Sys2Proof.Machine

open Sys2Proof.Config

/-- The record kinds (R81). -/
inductive Kind where
  | disarmed
  | command
  | throttle
  | lenerr
  deriving DecidableEq, Repr

/-- The 2-bit KIND codes (R81). -/
def Kind.code : Kind → BitVec 2
  | .disarmed => 0
  | .command => 1
  | .throttle => 2
  | .lenerr => 3

/-- F_REC, the output record (R80): every field of R but VALID (R30). -/
structure Record where
  kind : Kind
  tlm : Bool
  crcRx : Crc
  crcCalc : Crc
  crcOk : Bool
  code : Code
  value : Value
  pct : Pct
  pctRem : PctRem
  word : Word
  tsStart : Timestamp
  tsEnd : Timestamp
  deriving DecidableEq, Repr

/-- The output register R (R30). -/
structure OutReg where
  /-- `VALID`: the register holds a record not yet retired. -/
  valid : Bool
  /-- `KIND` to `TS_END`. -/
  record : Record
  deriving DecidableEq, Repr

/-- The levels on the input ports (R22, R23, R24), sampled at the next rising edge of `clk`. -/
structure Ports where
  rst : Bool
  inValid : Bool
  inLen : Length
  inData : Capture
  inTsStart : Timestamp
  inTsEnd : Timestamp
  outReady : Bool
  deriving DecidableEq, Repr

/-- One line of a stimulus program (R89): a field left out keeps its value from the line before. -/
structure StimLine where
  rst : Option Bool
  inValid : Option Bool
  len : Option Length
  data : Option Capture
  ts : Option (Timestamp × Timestamp)
  outReady : Option Bool
  deriving DecidableEq, Repr

/-- The intermediate values of the decode, under the spec's own names (R100 to R103, R120 to R126, R140 to
R144) and the record being formed (R151, R201). -/
structure Nets where
  raw48 : Capture
  corrected : Capture
  v : Working
  word : Word
  crc : Crc
  dataField : DataField
  telemetryRequest : Bool
  data : Data
  crcCheck : Crc
  crcOk : Bool
  kind : Kind
  code : Code
  value : Value
  num : Numerator
  q : Pct
  pct : Pct
  pctRem : PctRem
  record : Record
  deriving DecidableEq, Repr

/-- The machine. -/
structure State where
  /-- The build parameters (R9); no operation writes them (R20). -/
  params : Params
  /-- The output register (R30). -/
  r : OutReg
  /-- The intermediate values of the last decode: the model's own (R32; log entry 2). -/
  nets : Nets
  /-- The input ports' levels for the next edge (R23, R24): the outside world's. -/
  ports : Ports
  /-- The lines that follow on the input ports, one an edge (R89): the outside world's. -/
  stimulus : List StimLine
  deriving DecidableEq, Repr

/-- What stops a reader of the model. No operation and no step raises one: "No operation raises a trap, halts
the block, or leaves it in a state that needs recovery" (spec/60_exceptions.md R200). -/
inductive Fault where
  /-- Raised by `readOutput` alone: the consumer reads an `out_*` port other than `out_valid` while
  `out_valid == 0`, which R241 forbids and spec/93_implementation_defined.md U1 makes a fault. Safe: nothing
  can be proved about a value the spec leaves unspecified. -/
  | payloadReadWhileNotValid
  deriving DecidableEq, Repr

/-- Why an operation has no meaning. -/
inductive Refusal where
  /-- An operation of the table that has no meaning yet, by its mnemonic: raised by no arm of exec. Safe. -/
  | notModelled (mnemonic : String)
  deriving DecidableEq, Repr

/-- What an operation or a step answers. -/
abbrev Result := Host.Outcome State Fault Refusal

/-- The payload of R after reset, which the spec leaves unspecified (R34): all zero (log entry 6). No read
of an `out_*` port sees it (R241). -/
def Record.zero : Record :=
  { kind := .disarmed, tlm := false, crcRx := 0, crcCalc := 0, crcOk := false, code := 0, value := 0,
    pct := 0, pctRem := 0, word := 0, tsStart := 0, tsEnd := 0 }

/-- The input levels at rest: nothing offered, nothing taken, not in reset (log entry 8). -/
def Ports.rest : Ports :=
  { rst := false, inValid := false, inLen := 0, inData := 0, inTsStart := 0, inTsEnd := 0, outReady := false }

/-- The intermediate values before any decode: all zero (log entry 9). -/
def Nets.zero : Nets :=
  { raw48 := 0, corrected := 0, v := 0, word := 0, crc := 0, dataField := 0, telemetryRequest := false, data := 0,
    crcCheck := 0, crcOk := false, kind := .disarmed, code := 0, value := 0, num := 0, q := 0, pct := 0,
    pctRem := 0, record := Record.zero }

/-- The machine after a reset edge: `R.VALID = 0` (R34, R234), the parameters at the values R9 names, and every
value the spec leaves unspecified at the one the log names. -/
def State.reset : State :=
  { params := Params.reference
    r := { valid := false, record := Record.zero }
    nets := Nets.zero
    ports := Ports.rest
    stimulus := [] }

end Sys2Proof.Machine
end

