-- ==== Sys2Proof/Machine/Flags.lean ====
section
/-! DEFINITION. Machine/Flags.lean: the CRC-4 checker (spec/41_demux_crc.md R124 and R126). The block has no
status flags in the processor sense (spec/10_state.md R33): the verdict is a field of the record. -/

namespace Sys2Proof.Machine

/-- The recomputed checksum: the XOR fold of all 12 bits of the field, telemetry bit included (R124). -/
def crcFold (dataField : DataField) : Crc :=
  ((dataField ^^^ (dataField >>> 4) ^^^ (dataField >>> 8)) &&& 0xF).setWidth 4

/-- The verdict (R126). -/
def crcVerdict (crcCheck crc : Crc) : Bool := crcCheck == crc

end Sys2Proof.Machine
end

