-- ==== Sys2Proof/Machine/Operands.lean ====
section
/-! DEFINITION. Machine/Operands.lean: the values the decode computes, each a function of its operands alone:
the lanes of the input port, bit recovery (spec/40_bit_recovery.md), field extraction (spec/41_demux_crc.md R120 to
R123), classification and throttle scaling (spec/42_classifier.md R140 to R145). -/

namespace Sys2Proof.Machine

open Sys2Proof.Config

/-- Buffer byte `k`, on `in_data[47-8k : 40-8k]` (R23). -/
def bufferByte (inData : Capture) (k : Nat) : Byte := inData.extractLsb' (40 - 8 * k) 8

/-- Six bytes, the first most significant (R52, R100). -/
def assembleBytes (b0 b1 b2 b3 b4 b5 : Byte) : Capture := b0 ++ b1 ++ b2 ++ b3 ++ b4 ++ b5

/-- The capture on the input port (R100). -/
def assembleCapture (inData : Capture) : Capture :=
  assembleBytes (bufferByte inData 0) (bufferByte inData 1) (bufferByte inData 2) (bufferByte inData 3)
    (bufferByte inData 4) (bufferByte inData 5)

/-- Polarity correction (R101). -/
def correctPolarity (raw48 : Capture) : Capture := raw48 ^^^ 0xFFFFFFFFFFFF

/-- The working value with its synthetic start bit (R102). -/
def alignCapture (corrected : Capture) : Working := (corrected.setWidth 49 <<< 1) ||| 1

/-- `n` iterations of R103's loop, from the working value `v` and the word so far: what remains of `v` and
the word. -/
def decimateLoop : Nat → Working → Word → Working × Word
  | 0, v, word => (v, word)
  | n + 1, v, word =>
      decimateLoop n (v >>> oversample) (if v.getLsbD tap then (word <<< 1) ||| 1 else word <<< 1)

/-- The DecodedWord: all the iterations, from an empty word; what remains of `v` is discarded (R103). -/
def decimateWord (v : Working) : Word := (decimateLoop nBits v 0).2

/-- `crc = word & 0xF` (R120). -/
def wordToCrc (word : Word) : Crc := (word &&& 0xF).setWidth 4

/-- `data_field = word >> 4` (R121). -/
def wordToDataField (word : Word) : DataField := (word >>> 4).setWidth 12

/-- `telemetry_request = data_field & 1` (R122). -/
def fieldToTlm (dataField : DataField) : Bool := dataField &&& 1 != 0

/-- `data = data_field >> 1` (R123). -/
def fieldToData (dataField : DataField) : Data := (dataField >>> 1).setWidth 11

/-- The kind, by `data` alone (R140). -/
def classifyData (data : Data) : Kind :=
  if data = 0 then .disarmed else if data.toNat ≤ cmdMax then .command else .throttle

/-- `code = data[5:0]` (R142). -/
def commandCode (data : Data) : Code := data.setWidth 6

/-- `value = data - 48` (R143). -/
def throttleValue (data : Data) : Value := data - BitVec.ofNat 11 thrOffset

/-- `num = value * 10000` (R144). -/
def scaleNum (value : Value) : Numerator := BitVec.ofNat 25 (value.toNat * pctScale)

/-- `q = num div 1999` (R144). -/
def scaleQuot (num : Numerator) : Pct := BitVec.ofNat 14 (num.toNat / thrDen)

/-- `pct_rem = num mod 1999` (R144). -/
def scaleRem (num : Numerator) : PctRem := BitVec.ofNat 11 (num.toNat % thrDen)

/-- `pct`, by `PCT_ROUND` (R144). -/
def roundPct (rounding : PctRound) (q : Pct) (pctRem : PctRem) : Pct :=
  match rounding with
  | .trunc => q
  | .nearest => q + (if thrDen ≤ 2 * pctRem.toNat then 1 else 0)

end Sys2Proof.Machine
end

