-- ==== Sys2Proof/Machine/Ops.lean ====
section
/-! DEFINITION. Machine/Ops.lean: the operations over the intermediate values, the output register and the ports
that the meanings share. There is no memory, and no exception is ever taken: an error is delivered in band, as
a record (spec/60_exceptions.md R200 and R204), so `Nets.lenErr` stands where another machine takes one. -/

namespace Sys2Proof.Machine

open Sys2Proof.Config

/-! ### The stages over the intermediate values -/

/-- R100. -/
def Nets.assemble (p : Ports) (n : Nets) : Nets := { n with raw48 := assembleCapture p.inData }

/-- R101. -/
def Nets.polarity (n : Nets) : Nets := { n with corrected := correctPolarity n.raw48 }

/-- R102. -/
def Nets.align (n : Nets) : Nets := { n with v := alignCapture n.corrected }

/-- R103. -/
def Nets.decimate (n : Nets) : Nets := { n with word := decimateWord n.v }

/-- R120. -/
def Nets.extractCrc (n : Nets) : Nets := { n with crc := wordToCrc n.word }

/-- R121. -/
def Nets.extractDf (n : Nets) : Nets := { n with dataField := wordToDataField n.word }

/-- R122. -/
def Nets.extractTlm (n : Nets) : Nets := { n with telemetryRequest := fieldToTlm n.dataField }

/-- R123. -/
def Nets.extractData (n : Nets) : Nets := { n with data := fieldToData n.dataField }

/-- R124. -/
def Nets.crc4 (n : Nets) : Nets := { n with crcCheck := crcFold n.dataField }

/-- R126. -/
def Nets.verdict (n : Nets) : Nets := { n with crcOk := Machine.crcVerdict n.crcCheck n.crc }

/-- R140. -/
def Nets.classify (n : Nets) : Nets := { n with kind := classifyData n.data }

/-- The flags a decode operation writes into the record: TLM and CRC_RX from the word it decodes,
CRC_CALC and CRC_OK from the checker (R141 "Flags written", R151). -/
def Nets.writeFlags (tlm : Bool) (crc : Crc) (n : Nets) : Nets :=
  { n with record := { n.record with tlm := tlm, crcRx := crc, crcCalc := n.crcCheck, crcOk := n.crcOk } }

/-- The values a decode operation sets: its kind, and every value that belongs to another kind at 0
(R141 to R143). -/
def Nets.setClass (kind : Kind) (code : Code) (value : Value) (pct : Pct) (pctRem : PctRem) (n : Nets) : Nets :=
  { n with kind := kind, code := code, value := value, pct := pct, pctRem := pctRem }

/-- R141. -/
def Nets.disarmed (tlm : Bool) (crc : Crc) (n : Nets) : Nets :=
  (n.setClass .disarmed 0 0 0 0).writeFlags tlm crc

/-- R142. -/
def Nets.command (data : Data) (tlm : Bool) (crc : Crc) (n : Nets) : Nets :=
  (n.setClass .command (commandCode data) 0 0 0).writeFlags tlm crc

/-- SCALE of the throttle value (R144). -/
def Nets.scale (rounding : PctRound) (n : Nets) : Nets :=
  let num := scaleNum n.value
  { n with
    num := num
    q := scaleQuot num
    pctRem := scaleRem num
    pct := roundPct rounding (scaleQuot num) (scaleRem num) }

/-- R143, with the scaling it calls for. -/
def Nets.throttle (rounding : PctRound) (data : Data) (tlm : Bool) (crc : Crc) (n : Nets) : Nets :=
  ((n.setClass .throttle 0 (throttleValue data) n.pct n.pctRem).scale rounding).writeFlags tlm crc

/-- The decode operation CLASSIFY selected (R140). -/
def Nets.selectedClass (rounding : PctRound) (n : Nets) : Nets :=
  match n.kind with
  | .disarmed => n.disarmed n.telemetryRequest n.crc
  | .command => n.command n.data n.telemetryRequest n.crc
  | .throttle => n.throttle rounding n.data n.telemetryRequest n.crc
  | .lenerr => n

/-- The record of the decode path (R151). -/
def Nets.formRecord (p : Ports) (n : Nets) : Nets :=
  { n with record :=
    { kind := n.kind, tlm := n.telemetryRequest, crcRx := n.crc, crcCalc := n.crcCheck, crcOk := n.crcOk
      code := n.code, value := n.value, pct := n.pct, pctRem := n.pctRem, word := n.word
      tsStart := p.inTsStart, tsEnd := p.inTsEnd } }

/-- The length-error record: the timestamps alone say which frame it was (R201). -/
def lenErrRecord (p : Ports) : Record :=
  { kind := .lenerr, tlm := false, crcRx := 0, crcCalc := 0, crcOk := false, code := 0, value := 0, pct := 0
    pctRem := 0, word := 0, tsStart := p.inTsStart, tsEnd := p.inTsEnd }

/-- R201: no other intermediate value is written, because no stage runs on the bytes. -/
def Nets.lenErr (p : Ports) (n : Nets) : Nets := { n with record := lenErrRecord p }

/-- Bit recovery: R100 to R103 in order. -/
def Nets.recover (p : Ports) (n : Nets) : Nets := (n.assemble p).polarity.align.decimate

/-- The demultiplexer and the checker: R120 to R126 in order. -/
def Nets.demux (n : Nets) : Nets := n.extractCrc.extractDf.extractTlm.extractData.crc4.verdict

/-- The classifier and the record: R140 to R151 in order. -/
def Nets.conclude (rounding : PctRound) (p : Ports) (n : Nets) : Nets :=
  ((n.classify.selectedClass rounding).scale rounding).formRecord p

/-- What the combinational logic settles to for the frame on the input ports (R152): a length error comes first
(R84, R203). -/
def Nets.settle (rounding : PctRound) (p : Ports) (n : Nets) : Nets :=
  if p.inLen = nBytes then ((n.recover p).demux).conclude rounding p else n.lenErr p

/-! ### The ports and the output register -/

/-- The handshake vector `hs = {rst, in_valid, R.VALID, out_ready}` (R86). -/
def State.hs (s : State) : Handshake :=
  BitVec.ofBool s.ports.rst ++ BitVec.ofBool s.ports.inValid ++ BitVec.ofBool s.r.valid ++ BitVec.ofBool s.ports.outReady

/-- The operation this edge takes: the one `hs` selects (R86, R170). -/
def State.selected (s : State) : Instr := decodeHs s.hs

/-- `in_ready` (R25). -/
def State.inReady (s : State) : Bool := !s.ports.rst && (!s.r.valid || s.ports.outReady)

/-- `out_valid` (R24, R26). -/
def State.outValid (s : State) : Bool := s.r.valid

/-- Write an intermediate result. -/
def State.setNets (s : State) (n : Nets) : State := { s with nets := n }

/-- `R.VALID <- v`: the write of RESET and of RETIRE (R230, R173). -/
def State.setValid (s : State) (v : Bool) : State := { s with r := { s.r with valid := v } }

/-- The accept edge's write: the frame on the ports is decoded, and R takes the whole record at once
(R171, R172, R56, R57). -/
def State.takeFrame (s : State) : State :=
  let n := s.nets.settle s.params.pctRound s.ports
  { s with nets := n, r := { valid := true, record := n.record } }

/-- A stimulus line applied to the levels before it: a field left out keeps its value (R89). -/
def Ports.apply (p : Ports) (l : StimLine) : Ports :=
  { rst := l.rst.getD p.rst
    inValid := l.inValid.getD p.inValid
    inLen := l.len.getD p.inLen
    inData := l.data.getD p.inData
    inTsStart := (l.ts.getD (p.inTsStart, p.inTsEnd)).1
    inTsEnd := (l.ts.getD (p.inTsStart, p.inTsEnd)).2
    outReady := l.outReady.getD p.outReady }

/-- The outside world drives the ports for the next edge; with no line left every field keeps its value
(R89; log entry 5). -/
def State.present (s : State) : State :=
  match s.stimulus with
  | [] => s
  | l :: rest => { s with ports := s.ports.apply l, stimulus := rest }

/-! ### The consumer's reads -/

/-- The output ports (R24). -/
inductive OutPort where
  | outValid
  | outKind
  | outTlm
  | outCrcRx
  | outCrcCalc
  | outCrcOk
  | outCode
  | outValue
  | outPct
  | outPctRem
  | outWord
  | outTsStart
  | outTsEnd
  deriving DecidableEq, Repr

/-- The register field a port other than `out_valid` is wired to, as a number (R24, R26). -/
def Record.onPort (rec : Record) (valid : Bool) : OutPort → Nat
  | .outValid => valid.toNat
  | .outKind => rec.kind.code.toNat
  | .outTlm => rec.tlm.toNat
  | .outCrcRx => rec.crcRx.toNat
  | .outCrcCalc => rec.crcCalc.toNat
  | .outCrcOk => rec.crcOk.toNat
  | .outCode => rec.code.toNat
  | .outValue => rec.value.toNat
  | .outPct => rec.pct.toNat
  | .outPctRem => rec.pctRem.toNat
  | .outWord => rec.word.toNat
  | .outTsStart => rec.tsStart
  | .outTsEnd => rec.tsEnd

/-- The consumer reads a port: `out_valid` at any time, another port only while `out_valid == 1`; else it has
broken its duty (R241; U1 of spec/93_implementation_defined.md). A read has no side effect (R58). -/
def readOutput (port : OutPort) (s : State) : Host.Outcome Nat Fault Refusal :=
  if port = .outValid ∨ s.r.valid then .next (s.r.record.onPort s.r.valid port)
  else .fault .payloadReadWhileNotValid

end Sys2Proof.Machine
end

