-- ==== Sys2Proof/Machine/BitRecovery.lean ====
section
/-! DEFINITION. Machine/BitRecovery.lean: the stages of spec/40_bit_recovery.md. Each reads its operands and writes
one intermediate value; none touches R (spec/10_state.md R30). -/

namespace Sys2Proof.Machine

/-- ASSEMBLE (R100). -/
def execAssemble (s : State) : Result := .next (s.setNets (s.nets.assemble s.ports))

/-- POLARITY (R101). -/
def execPolarity (s : State) : Result := .next (s.setNets s.nets.polarity)

/-- ALIGN (R102). -/
def execAlign (s : State) : Result := .next (s.setNets s.nets.align)

/-- DECIMATE (R103). -/
def execDecimate (s : State) : Result := .next (s.setNets s.nets.decimate)

end Sys2Proof.Machine
end

