-- ==== Sys2Proof/Machine/Classifier.lean ====
section
/-! DEFINITION. Machine/Classifier.lean: the operations of spec/42_classifier.md, and the length error of
spec/60_exceptions.md R201, which forms its record in place of them. -/

namespace Sys2Proof.Machine

/-- CLASSIFY (R140). -/
def execClassify (s : State) : Result := .next (s.setNets s.nets.classify)

/-- DEC_DISARMED (R141). -/
def execDecDisarmed (tlm : Bool) (crc : Crc) (s : State) : Result := .next (s.setNets (s.nets.disarmed tlm crc))

/-- DEC_COMMAND (R142). -/
def execDecCommand (data : Data) (tlm : Bool) (crc : Crc) (s : State) : Result :=
  .next (s.setNets (s.nets.command data tlm crc))

/-- DEC_THROTTLE (R143). -/
def execDecThrottle (data : Data) (tlm : Bool) (crc : Crc) (s : State) : Result :=
  .next (s.setNets (s.nets.throttle s.params.pctRound data tlm crc))

/-- SCALE (R144). -/
def execScale (s : State) : Result := .next (s.setNets (s.nets.scale s.params.pctRound))

/-- FORM_RECORD (R151). -/
def execFormRecord (s : State) : Result := .next (s.setNets (s.nets.formRecord s.ports))

/-- DEC_LENERR (R201): the offending length is not recorded, and `in_data` is not read. -/
def execDecLenerr (_len : Length) (s : State) : Result := .next (s.setNets (s.nets.lenErr s.ports))

end Sys2Proof.Machine
end

