-- ==== Sys2Proof/Machine/Demux.lean ====
section
/-! DEFINITION. Machine/Demux.lean: the stages of spec/41_demux_crc.md, the demultiplexer and the CRC-4 checker. -/

namespace Sys2Proof.Machine

/-- EXTRACT_CRC (R120). -/
def execExtractCrc (s : State) : Result := .next (s.setNets s.nets.extractCrc)

/-- EXTRACT_DF (R121). -/
def execExtractDf (s : State) : Result := .next (s.setNets s.nets.extractDf)

/-- EXTRACT_TLM (R122). -/
def execExtractTlm (s : State) : Result := .next (s.setNets s.nets.extractTlm)

/-- EXTRACT_DATA (R123). -/
def execExtractData (s : State) : Result := .next (s.setNets s.nets.extractData)

/-- CRC4 (R124). -/
def execCrc4 (s : State) : Result := .next (s.setNets s.nets.crc4)

/-- CRC_VERDICT (R126). -/
def execCrcVerdict (s : State) : Result := .next (s.setNets s.nets.verdict)

end Sys2Proof.Machine
end

