-- ==== Sys2Proof/Machine/Transactions.lean ====
section
/-! DEFINITION. Machine/Transactions.lean: the transaction operations, what one rising edge of `clk` does
(spec/43_transactions.md R171 to R176, spec/70_reset_and_hazards.md R230). The bits a pattern leaves free change
nothing an operation does. -/

namespace Sys2Proof.Machine

/-- RESET (R230): `R.VALID <- 0`, every other field keeps its old value. -/
def execReset (_inValid _valid _outReady : Bool) (s : State) : Result := .next (s.setValid false)

/-- IDLE (R175): no write. -/
def execIdle (_outReady : Bool) (s : State) : Result := .next s

/-- HOLD (R174): no write. -/
def execHold (s : State) : Result := .next s

/-- RETIRE (R173): `R.VALID <- 0`, the other fields keep their values. -/
def execRetire (s : State) : Result := .next (s.setValid false)

/-- ACCEPT (R171). -/
def execAccept (_outReady : Bool) (s : State) : Result := .next s.takeFrame

/-- STALL (R176): no write, the offered frame is not taken. -/
def execStall (s : State) : Result := .next s

/-- ACCEPT_RETIRE (R172): the old record counts as consumed at this edge, then R takes the new one. -/
def execAcceptRetire (s : State) : Result := .next s.takeFrame

end Sys2Proof.Machine
end

