-- ==== Sys2Proof/Machine/Dispatch.lean ====
section
/-! DEFINITION. Machine/Dispatch.lean: every operation to its meaning. -/

namespace Sys2Proof.Machine

def exec (i : Instr) (s : State) : Host.Outcome State Fault Refusal :=
  match i with
  -- the decode operations: spec/42_classifier.md, spec/60_exceptions.md
  | .decDisarmed tlm crc => Sys2Proof.Machine.execDecDisarmed tlm crc s
  | .decCommand data tlm crc => Sys2Proof.Machine.execDecCommand data tlm crc s
  | .decThrottle data tlm crc => Sys2Proof.Machine.execDecThrottle data tlm crc s
  | .decLenerr len => Sys2Proof.Machine.execDecLenerr len s
  -- the transaction operations: spec/43_transactions.md, spec/70_reset_and_hazards.md
  | .reset inValid valid outReady => Sys2Proof.Machine.execReset inValid valid outReady s
  | .idle outReady => Sys2Proof.Machine.execIdle outReady s
  | .hold => Sys2Proof.Machine.execHold s
  | .retire => Sys2Proof.Machine.execRetire s
  | .accept outReady => Sys2Proof.Machine.execAccept outReady s
  | .stall => Sys2Proof.Machine.execStall s
  | .acceptRetire => Sys2Proof.Machine.execAcceptRetire s
  -- the pipeline stages: spec/40_bit_recovery.md, spec/41_demux_crc.md, spec/42_classifier.md
  | .assemble => Sys2Proof.Machine.execAssemble s
  | .polarity => Sys2Proof.Machine.execPolarity s
  | .align => Sys2Proof.Machine.execAlign s
  | .decimate => Sys2Proof.Machine.execDecimate s
  | .extractCrc => Sys2Proof.Machine.execExtractCrc s
  | .extractDf => Sys2Proof.Machine.execExtractDf s
  | .extractTlm => Sys2Proof.Machine.execExtractTlm s
  | .extractData => Sys2Proof.Machine.execExtractData s
  | .crc4 => Sys2Proof.Machine.execCrc4 s
  | .crcVerdict => Sys2Proof.Machine.execCrcVerdict s
  | .classify => Sys2Proof.Machine.execClassify s
  | .scale => Sys2Proof.Machine.execScale s
  | .formRecord => Sys2Proof.Machine.execFormRecord s

end Sys2Proof.Machine
end

