-- ==== Sys2Proof/Machine/Step.lean ====
section
/-! DEFINITION. Machine/Step.lean: one rising edge of `clk` (spec/43_transactions.md R170): the operation `hs`
selects, and then the outside world's levels for the next edge (log entries 1 and 5). -/

namespace Sys2Proof.Machine

/-- One rising edge. -/
def step (s : State) : Host.Outcome State Fault Refusal :=
  match exec s.selected s with
  | .next t => .next t.present
  | .fault r => .fault r
  | .refused r => .refused r

/-- The state whose next edge takes the operation a word of the opcode table selects: the levels on the input
ports (and, for a handshake vector, R.VALID) that select it. A word of F_WORD is offered as its canonical capture
(R107), and a frame is offered with `out_ready == 1`, so that the edge accepts it whatever R holds (log entry 10). -/
def State.withFetchWord (s : State) (nbits w : Nat) : State :=
  let offer : Ports := { s.ports with rst := false, inValid := true, outReady := true }
  match formOf nbits w with
  | .error _ => s
  | .ok (.fHs hs) =>
      { s with
        r := { s.r with valid := hs.getLsbD 1 }
        ports := { s.ports with rst := hs.getLsbD 3, inValid := hs.getLsbD 2, outReady := hs.getLsbD 0 } }
  | .ok (.fLen len) => { s with ports := { offer with inLen := len } }
  | .ok (.fWord word) => { s with ports := { offer with inLen := Config.nBytes, inData := frame word false } }
  | .ok (.fCap raw48) => { s with ports := { offer with inLen := Config.nBytes, inData := raw48 } }
  | .ok .fRec => { s with ports := { offer with inLen := Config.nBytes } }

end Sys2Proof.Machine
end

