-- ==== Sys2Proof/Machine/Decoder.lean ====
section
/-! DEFINITION. Machine/Decoder.lean: `DECODE` of spec/42_classifier.md R152, the source's per-frame function,
written as that rule writes it: in exact unsigned arithmetic on numbers, beside the staged meaning that
`State.takeFrame` gives an accept edge. The machine does not call it: claims compare the two. -/

namespace Sys2Proof.Machine

open Sys2Proof.Config

/-- R152's `repeat`: `n` times, `word = ((word << 1) | v[1]) & 0xFFFF; v = v >> 3`. -/
def decodeLoop : Nat → Nat → Nat → Nat
  | 0, _, word => word
  | n + 1, v, word => decodeLoop n (v >>> 3) (((word <<< 1) ||| ((v >>> 1) &&& 1)) &&& 0xFFFF)

/-- The word of R152, from the capture. -/
def decodeCapture (data48 : Nat) : Nat :=
  decodeLoop 16 ((((data48 ^^^ 0xFFFFFFFFFFFF) <<< 1) ||| 1)) 0

/-- The percent of R152: `q`, rounded by `PCT_ROUND`. -/
def decodePct (rounding : PctRound) (value : Nat) : Nat :=
  match rounding with
  | .trunc => value * 10000 / 1999
  | .nearest => value * 10000 / 1999 + (if 2 * (value * 10000 % 1999) ≥ 1999 then 1 else 0)

/-- `kind, code, value, pct, rem` of R152, from the data value. -/
def decodeClass (rounding : PctRound) (data : Nat) : Kind × Nat × Nat × Nat × Nat :=
  if data = 0 then (.disarmed, 0, 0, 0, 0)
  else if data ≤ 47 then (.command, data, 0, 0, 0)
  else (.throttle, 0, data - 48, decodePct rounding (data - 48), (data - 48) * 10000 % 1999)

/-- The record R152 returns for a word and two timestamps. -/
def decodeWordRecord (rounding : PctRound) (word tsS tsE : Nat) : Record :=
  let df := word >>> 4
  let crcCheck := (df ^^^ (df >>> 4) ^^^ (df >>> 8)) &&& 0xF
  let c := decodeClass rounding (df >>> 1)
  { kind := c.1
    tlm := df &&& 1 == 1
    crcRx := BitVec.ofNat 4 (word &&& 0xF)
    crcCalc := BitVec.ofNat 4 crcCheck
    crcOk := crcCheck == word &&& 0xF
    code := BitVec.ofNat 6 c.2.1
    value := BitVec.ofNat 11 c.2.2.1
    pct := BitVec.ofNat 14 c.2.2.2.1
    pctRem := BitVec.ofNat 11 c.2.2.2.2
    word := BitVec.ofNat 16 word
    tsStart := tsS
    tsEnd := tsE }

/-- `DECODE(len, data48, ts_s, ts_e)` (R152), under the build parameter `PCT_ROUND`. -/
def decodeFrame (rounding : PctRound) (len data48 tsS tsE : Nat) : Record :=
  if len ≠ 6 then
    { kind := .lenerr, tlm := false, crcRx := 0, crcCalc := 0, crcOk := false, code := 0, value := 0, pct := 0
      pctRem := 0, word := 0, tsStart := tsS, tsEnd := tsE }
  else decodeWordRecord rounding (decodeCapture data48) tsS tsE

/-- `DECODE` of the frame on the input ports. -/
def Ports.decoded (rounding : PctRound) (p : Ports) : Record :=
  decodeFrame rounding p.inLen.toNat p.inData.toNat p.inTsStart p.inTsEnd

end Sys2Proof.Machine
end

