-- ==== Sys2Proof/Safety.lean ====
section
/-! DEFINITION. Safety.lean: the terms claims use: legal records and the machine's invariant, what the outside
world sees at an edge (a frame accepted, a record retired), and runs of edges (spec/00_scope.md R14, spec/10_state.md
R30, spec/43_transactions.md R177 and R178). -/

namespace Sys2Proof.Machine

open Sys2Proof.Config

/-! ### Legal states -/

/-- The "legal values" column of R30 with the zeros of R82: CODE is 1..47 under COMMAND and 0 otherwise, VALUE,
PCT and PCT_REM are in range and 0 unless the record is a throttle, and a length-error record is empty. -/
structure Record.Legal (r : Record) : Prop where
  codeZero : r.kind ≠ .command → r.code = 0
  codeRange : r.kind = .command → 1 ≤ r.code.toNat ∧ r.code.toNat ≤ 47
  throttleZero : r.kind ≠ .throttle → r.value = 0 ∧ r.pct = 0 ∧ r.pctRem = 0
  throttleRange : r.value.toNat ≤ 1999 ∧ r.pct.toNat ≤ 10000 ∧ r.pctRem.toNat ≤ 1998
  lenerrEmpty : r.kind = .lenerr →
    r.tlm = false ∧ r.crcRx = 0 ∧ r.crcCalc = 0 ∧ r.crcOk = false ∧ r.word = 0

/-- Both timestamps fit the build's `TS_W` bits. -/
def tsFits (params : Params) (tsS tsE : Timestamp) : Prop := tsS < 2 ^ params.tsW ∧ tsE < 2 ^ params.tsW

/-- A stimulus line that drives the timestamps drives them with `TS_W` bits. -/
def StimLine.fits (params : Params) (l : StimLine) : Prop := ∀ ts, l.ts = some ts → tsFits params ts.1 ts.2

/-- The invariant: R holds legal values (R30); while R.VALID, they are DECODE of one frame, never of two
(R57); and every timestamp is of the port's width. -/
structure State.Inv (s : State) : Prop where
  legal : s.r.record.Legal
  oneFrame : s.r.valid = true → ∃ (len : Length) (data : Capture),
    s.r.record = decodeFrame s.params.pctRound len.toNat data.toNat s.r.record.tsStart s.r.record.tsEnd
  recordFits : tsFits s.params s.r.record.tsStart s.r.record.tsEnd
  portsFit : tsFits s.params s.ports.inTsStart s.ports.inTsEnd
  stimulusFits : ∀ l ∈ s.stimulus, l.fits s.params

/-! ### What an edge does at the ports -/

/-- A frame: what an accept edge samples (R56). -/
structure Frame where
  len : Length
  data : Capture
  tsStart : Timestamp
  tsEnd : Timestamp
  deriving DecidableEq, Repr

/-- The frame on the input ports (R23). -/
def Ports.frame (p : Ports) : Frame :=
  { len := p.inLen, data := p.inData, tsStart := p.inTsStart, tsEnd := p.inTsEnd }

/-- `DECODE` of a frame (R152). -/
def Frame.decoded (rounding : PctRound) (f : Frame) : Record :=
  decodeFrame rounding f.len.toNat f.data.toNat f.tsStart f.tsEnd

/-- The edge accepts: `in_valid` and `in_ready` are both 1 (R14). -/
def State.accepts (s : State) : Bool := s.ports.inValid && s.inReady

/-- The edge retires: `out_valid` and `out_ready` are both 1 (R14), and it is no reset edge (R231). -/
def State.retires (s : State) : Bool := !s.ports.rst && s.outValid && s.ports.outReady

/-- The frames taken at this edge: one or none. -/
def State.acceptedNow (s : State) : List Frame := if s.accepts then [s.ports.frame] else []

/-- The records the consumer takes at this edge: one or none. -/
def State.retiredNow (s : State) : List Record := if s.retires then [s.r.record] else []

/-- The records held: one or none. -/
def State.held (s : State) : List Record := if s.r.valid then [s.r.record] else []

/-! ### Runs -/

/-- The state after one edge. -/
def State.edge (s : State) : State :=
  match step s with
  | .next t => t
  | .fault _ => s
  | .refused _ => s

/-- The state after `n` edges. -/
def State.after (s : State) : Nat → State
  | 0 => s
  | n + 1 => s.edge.after n

/-- No one of the next `n` edges is a reset edge. -/
def State.noReset (s : State) : Nat → Prop
  | 0 => True
  | n + 1 => s.ports.rst = false ∧ s.edge.noReset n

/-- The frames accepted at the next `n` edges, in time. -/
def State.acceptedOver (s : State) : Nat → List Frame
  | 0 => []
  | n + 1 => s.acceptedNow ++ s.edge.acceptedOver n

/-- The records retired at the next `n` edges, in time. -/
def State.retiredOver (s : State) : Nat → List Record
  | 0 => []
  | n + 1 => s.retiredNow ++ s.edge.retiredOver n

/-- The operations run one after another, each by `exec`. -/
def runOps : List Instr → State → Result
  | [], s => .next s
  | i :: rest, s =>
      match exec i s with
      | .next t => runOps rest t
      | .fault r => .fault r
      | .refused r => .refused r

/-! ### Values claims speak of -/

/-- The percent of a throttle value (R144). -/
def pctOf (rounding : PctRound) (value : Value) : Pct :=
  roundPct rounding (scaleQuot (scaleNum value)) (scaleRem (scaleNum value))

/-- The remainder of a throttle value (R144). -/
def pctRemOf (value : Value) : PctRem := scaleRem (scaleNum value)

/-- The checksum recomputed for a word (R124). -/
def wordCheck (w : Word) : Crc := crcFold (wordToDataField w)

/-- The verdict on a word (R126). -/
def wordPasses (w : Word) : Bool := crcVerdict (wordCheck w) (wordToCrc w)

/-- A word with its bit `p` inverted. -/
def flipBit (w : Word) (p : Nat) : Word := w ^^^ (1#16 <<< p)

/-- The transaction operations: the ones that write R (R30). -/
def isTransaction : Instr → Bool
  | .reset _ _ _ => true
  | .idle _ => true
  | .hold => true
  | .retire => true
  | .accept _ => true
  | .stall => true
  | .acceptRetire => true
  | .decDisarmed _ _ => false
  | .decCommand _ _ _ => false
  | .decThrottle _ _ _ => false
  | .decLenerr _ => false
  | .assemble => false
  | .polarity => false
  | .align => false
  | .decimate => false
  | .extractCrc => false
  | .extractDf => false
  | .extractTlm => false
  | .extractData => false
  | .crc4 => false
  | .crcVerdict => false
  | .classify => false
  | .scale => false
  | .formRecord => false

end Sys2Proof.Machine
end

