-- ==== Sys2Proof/Certificates/Slice0/Obligations.lean ====
section
/-! DEFINITION. Certificates/Slice0/Obligations.lean: what is claimed of the machine. Each statement's docstring names
the rules of spec/ it formalises. -/

open Sys2Proof Sys2Proof.Machine Sys2Proof.Config

/-! ### Encodings -/

/-- R86: the handshake vector is `{rst, in_valid, R.VALID, out_ready}`, rst most significant; exactly one of the seven
rows matches any vector, and the decoder gives that row's operation with the vector's free bits in it. -/
def Obligations.HandshakeVectorSelectsExactlyOne : Prop :=
  (∀ s : State, s.hs.getLsbD 3 = s.ports.rst ∧ s.hs.getLsbD 2 = s.ports.inValid ∧ s.hs.getLsbD 1 = s.r.valid ∧
    s.hs.getLsbD 0 = s.ports.outReady) ∧
  ∀ hs : Handshake,
    (([(0x8, 0x8), (0xE, 0x0), (0xF, 0x2), (0xF, 0x3), (0xE, 0x4), (0xF, 0x6), (0xF, 0x7)] :
      List (Handshake × Handshake)).filter (fun row => hsAccepts row.1 row.2 hs)).length = 1 ∧
    rowAccepts (decodeHs hs) (.fHs hs) = true ∧ encode (decodeHs hs) = .fHs hs

/-- The spec's own inference R85 (from R84 and R73): the thirteen patterns over F_WORD are a disjoint, exact cover of
the words, and the decoder gives the operation whose pattern matches. -/
def Obligations.WordPatternsCoverExactlyOnce : Prop :=
  ∀ w : Word, wordRowCount w = 1 ∧ rowAccepts (decodeWord w) (.fWord w) = true

/-- R84: the length first, then the data value, in that priority order. -/
def Obligations.LengthThenDataSelectsDecodeOperation : Prop :=
  (∀ len : Length, len ≠ 6 → decode (.fLen len) = .ok (.decLenerr len)) ∧
  decode (.fLen 6) = .error .lengthSelectsDecodePath ∧
  ∀ w : Word,
    (w.toNat / 32 = 0 → decode (.fWord w) = .ok (.decDisarmed (w.getLsbD 4) (w.setWidth 4))) ∧
    (1 ≤ w.toNat / 32 → w.toNat / 32 ≤ 47 →
      decode (.fWord w) = .ok (.decCommand (BitVec.ofNat 11 (w.toNat / 32)) (w.getLsbD 4) (w.setWidth 4))) ∧
    (48 ≤ w.toNat / 32 →
      decode (.fWord w) = .ok (.decThrottle (BitVec.ofNat 11 (w.toNat / 32)) (w.getLsbD 4) (w.setWidth 4)))

/-- Decode and encode agree on every operation selected by its bits: it decodes from its encoding to itself, operands
and all (R84 to R86; its operands are log entry 12's). A pipeline stage, a mask-0 row of the table, is selected by no
bits: it is among the stages the values of its format pass through (the model's choice, log entry 11). -/
def Obligations.EncodedOperationDecodesToItself : Prop :=
  ∀ i : Instr, i.wellFormed = true →
    (i.selectedByBits = true → decode (encode i) = .ok i) ∧
    (i.selectedByBits = false → i ∈ stagesBefore (encode i) ∨ i ∈ stagesAfter (encode i))

/-- The other direction: a value that decodes to an operation is that operation's encoding, and the operation is well
formed. -/
def Obligations.DecodedOperationEncodesBack : Prop :=
  ∀ (f : Form) (i : Instr), decode f = .ok i → encode i = f ∧ i.wellFormed = true ∧ i.selectedByBits = true

/-- A few words written out from the spec's patterns decode to what they stand for (R85, R86, R72). -/
def Obligations.WrittenOutWordsDecode : Prop :=
  decodeTableWord 16 0x0011 = some (.decDisarmed true 1) ∧
  decodeTableWord 16 0x05FA = some (.decCommand 47 true 10) ∧
  decodeTableWord 16 0x82C6 = some (.decThrottle 1046 false 6) ∧
  decodeTableWord 8 0b0111 = some .acceptRetire ∧
  decodeTableWord 8 0b1101 = some (.reset true false true) ∧
  decode (.fLen 5) = .ok (.decLenerr 5)

/-- The spec's own inference R107 (from R104): bit `k` of `FRAME(word, fill)` is the complement of `word[15 - k/3]`
where 3 divides `k`, and `fill` elsewhere. -/
def Obligations.CanonicalCaptureBits : Prop :=
  ∀ (w : Word) (fill : Bool) (k : Nat), k < 48 →
    (frame w fill).getLsbD k = if k % 3 = 0 then !w.getLsbD (15 - k / 3) else fill

/-! ### Bit recovery -/

/-- R100, R52, R53: the bytes on their lanes, byte 0 most significant, are `in_data` itself; byte `k`'s bit `j` is
`raw48[8*(5-k) + j]`; nothing else is written. -/
def Obligations.AssembleTakesInDataUnswapped : Prop :=
  (∀ s : State, exec .assemble s = .next { s with nets := { s.nets with raw48 := s.ports.inData } }) ∧
  ∀ (d : Capture) (k j : Nat), k < 6 → j < 8 → (bufferByte d k).getLsbD j = d.getLsbD (8 * (5 - k) + j)

/-- R101: the complement at width 48. -/
def Obligations.PolarityComplementsEverySample : Prop :=
  ∀ s : State, exec .polarity s = .next { s with nets := { s.nets with corrected := ~~~s.nets.raw48 } }

/-- R102: `v[0] = 1` and `v[k] = corrected[k-1]` for k = 1..48; no bit is lost and nothing else is written. -/
def Obligations.AlignPlacesStartBitBelowSamples : Prop :=
  ∀ s : State, ∃ v : Working, exec .align s = .next { s with nets := { s.nets with v := v } } ∧
    v.getLsbD 0 = true ∧ ∀ k, 1 ≤ k → k ≤ 48 → v.getLsbD k = s.nets.corrected.getLsbD (k - 1)

/-- R103, R104: for every working value, iteration `i` of the loop puts `v[3i+1]` at `word[15-i]`; nothing else is
written. -/
def Obligations.DecimateSelectsTapOfEachWindow : Prop :=
  ∀ s : State, ∃ word : Word, exec .decimate s = .next { s with nets := { s.nets with word := word } } ∧
    ∀ i, i ≤ 15 → word.getLsbD (15 - i) = s.nets.v.getLsbD (3 * i + 1)

/-- The spec's own inference R104 (from R100 to R103): `word[15-i] = v[3i+1] = corrected[3i] = ~raw48[3i]`, whatever
the capture of an accepted frame of 6 bytes and whatever the machine held. -/
def Obligations.AcceptedWordIsComplementedTaps : Prop :=
  ∀ (s : State) (b : Bool), s.ports.inLen = 6 → ∃ t : State, exec (.accept b) s = .next t ∧
    ∀ i, i ≤ 15 → t.r.record.word.getLsbD (15 - i) = !s.ports.inData.getLsbD (3 * i) ∧
      t.nets.v.getLsbD (3 * i + 1) = !s.ports.inData.getLsbD (3 * i) ∧
      t.nets.corrected.getLsbD (3 * i) = !s.ports.inData.getLsbD (3 * i)

/-- The spec's own inference R108 (from R104 and R107), the round-trip law: any capture that agrees with `FRAME(w, ·)`
on the tap bits is accepted as `w`, with `w`'s data, telemetry request and checksum. -/
def Obligations.CaptureRoundTripRecoversWord : Prop :=
  ∀ (s : State) (w : Word) (b : Bool), s.ports.inLen = 6 →
    (∀ i, i ≤ 15 → s.ports.inData.getLsbD (3 * i) = !w.getLsbD (15 - i)) →
    ∃ t : State, exec (.accept b) s = .next t ∧ t.r.record.word = w ∧
      t.nets.data.toNat = w.toNat / 32 ∧ t.r.record.tlm = w.getLsbD 4 ∧ t.r.record.crcRx.toNat = w.toNat % 16

/-- The spec's own inferences R71 and R106 (from R100 to R104): two frames that agree on the 16 tap samples give the
same record, whatever the other 32 samples hold and whatever either machine held before. -/
def Obligations.NonTapSamplesNeverReachTheRecord : Prop :=
  ∀ (s t : State) (b c : Bool), s.ports.inLen = 6 → t.ports.inLen = 6 →
    s.params.pctRound = t.params.pctRound →
    s.ports.inTsStart = t.ports.inTsStart → s.ports.inTsEnd = t.ports.inTsEnd →
    (∀ i, i ≤ 15 → s.ports.inData.getLsbD (3 * i) = t.ports.inData.getLsbD (3 * i)) →
    ∃ s' t' : State, exec (.accept b) s = .next s' ∧ exec (.accept c) t = .next t' ∧ s'.r = t'.r

/-! ### Demultiplexer and CRC-4 checker -/

/-- R120 to R123, in numbers: each extraction writes its own value and nothing else. -/
def Obligations.FieldExtractionsDivideTheWord : Prop :=
  ∀ s : State,
    exec .extractCrc s = .next { s with nets := { s.nets with crc := BitVec.ofNat 4 (s.nets.word.toNat % 16) } } ∧
    exec .extractDf s = .next { s with nets := { s.nets with dataField := BitVec.ofNat 12 (s.nets.word.toNat / 16) } } ∧
    exec .extractTlm s = .next { s with nets := { s.nets with
      telemetryRequest := decide (s.nets.dataField.toNat % 2 = 1) } } ∧
    exec .extractData s = .next { s with nets := { s.nets with data := BitVec.ofNat 11 (s.nets.dataField.toNat / 2) } }

/-- R124, in the form of R125: bit `j` of the checksum is the XOR of bits `j`, `j+4` and `j+8` of the field, telemetry
bit included; nothing else is written. -/
def Obligations.ChecksumFoldsThreeNibbles : Prop :=
  ∀ s : State, ∃ c : Crc, exec .crc4 s = .next { s with nets := { s.nets with crcCheck := c } } ∧
    ∀ j, j < 4 → c.getLsbD j =
      (s.nets.dataField.getLsbD j ^^ s.nets.dataField.getLsbD (j + 4) ^^ s.nets.dataField.getLsbD (j + 8))

/-- R126: the verdict is equality of the two checksums, and nothing else is written. -/
def Obligations.VerdictComparesChecksums : Prop :=
  ∀ s : State, ∃ ok : Bool, exec .crcVerdict s = .next { s with nets := { s.nets with crcOk := ok } } ∧
    (ok = true ↔ s.nets.crcCheck = s.nets.crc)

/-- R126, R127, R202: two frames whose words differ in the transmitted checksum alone are classified, scaled and
check-summed alike. -/
def Obligations.FailedChecksumNeverChangesTheClass : Prop :=
  ∀ (s t : State) (b c : Bool), s.ports.inLen = 6 → t.ports.inLen = 6 →
    s.params.pctRound = t.params.pctRound →
    (∀ i, i ≤ 11 → s.ports.inData.getLsbD (3 * i) = t.ports.inData.getLsbD (3 * i)) →
    ∃ s' t' : State, exec (.accept b) s = .next s' ∧ exec (.accept c) t = .next t' ∧
      s'.r.record.kind = t'.r.record.kind ∧ s'.r.record.code = t'.r.record.code ∧
      s'.r.record.value = t'.r.record.value ∧ s'.r.record.pct = t'.r.record.pct ∧
      s'.r.record.pctRem = t'.r.record.pctRem ∧ s'.r.record.tlm = t'.r.record.tlm ∧
      s'.r.record.crcCalc = t'.r.record.crcCalc ∧
      (s'.r.record.crcOk = true ↔ s'.r.record.crcCalc = s'.r.record.crcRx)

/-- The spec's own inference R128 (from R120, R124 and R126): a passing word with one bit inverted fails; where the
bit is in the data field the recomputed checksum changes in bit `(p-4) mod 4` alone and the transmitted one is
unchanged, and otherwise only the transmitted one changes; two flips in one nibble column leave the recomputed
checksum unchanged and are not detected. -/
def Obligations.SingleBitErrorIsDetected : Prop :=
  ∀ (w : Word) (p : Nat), p < 16 →
    (wordPasses w = true → wordPasses (flipBit w p) = false) ∧
    (4 ≤ p → wordToCrc (flipBit w p) = wordToCrc w ∧
      ∀ j, j < 4 → ((wordCheck (flipBit w p)).getLsbD j ≠ (wordCheck w).getLsbD j ↔ j = (p - 4) % 4)) ∧
    (p < 4 → wordToCrc (flipBit w p) ≠ wordToCrc w ∧ wordCheck (flipBit w p) = wordCheck w) ∧
    ∀ q, 4 ≤ p → p < q → q < 16 → p % 4 = q % 4 → wordCheck (flipBit (flipBit w p) q) = wordCheck w ∧
      wordPasses (flipBit (flipBit w p) q) = wordPasses w

/-! ### Classifier and scaling -/

/-- R140: the kind, by the data value alone; nothing else is written. -/
def Obligations.ClassifyReadsDataAlone : Prop :=
  ∀ s : State, ∃ k : Kind, exec .classify s = .next { s with nets := { s.nets with kind := k } } ∧
    (s.nets.data.toNat = 0 → k = .disarmed) ∧
    (1 ≤ s.nets.data.toNat → s.nets.data.toNat ≤ 47 → k = .command) ∧
    (48 ≤ s.nets.data.toNat → k = .throttle)

/-- R141: kind 0 and every value of another kind 0; the flags go into the record; nothing else is written. Of the
words that select the operation two pass, 0x0000 and 0x0011, and the all-ones capture decodes to 0x0000. -/
def Obligations.DisarmedOutcome : Prop :=
  (∀ (s : State) (tlm : Bool) (crc : Crc), exec (.decDisarmed tlm crc) s = .next { s with nets := { s.nets with
    kind := .disarmed, code := 0, value := 0, pct := 0, pctRem := 0
    record := { s.nets.record with tlm := tlm, crcRx := crc, crcCalc := s.nets.crcCheck, crcOk := s.nets.crcOk } } }) ∧
  (∀ w : Word, w.toNat / 32 = 0 → (wordPasses w = true ↔ w = 0x0000 ∨ w = 0x0011)) ∧
  decodeCapture 0xFFFFFFFFFFFF = 0x0000

/-- R142: kind 1 and the code is the data value, for every data value the operation is selected by; the flags go into
the record; nothing else is written. -/
def Obligations.CommandOutcome : Prop :=
  ∀ (s : State) (data : Data) (tlm : Bool) (crc : Crc), 1 ≤ data.toNat → data.toNat ≤ 47 →
    ∃ code : Code, code.toNat = data.toNat ∧
      exec (.decCommand data tlm crc) s = .next { s with nets := { s.nets with
        kind := .command, code := code, value := 0, pct := 0, pctRem := 0
        record := { s.nets.record with
          tlm := tlm, crcRx := crc, crcCalc := s.nets.crcCheck, crcOk := s.nets.crcOk } } }

/-- R143, R144: kind 2, the value is `data - 48` and never negative, and the percent is that value's, by the build's
rounding; the flags go into the record. -/
def Obligations.ThrottleOutcome : Prop :=
  ∀ (s : State) (data : Data) (tlm : Bool) (crc : Crc), 48 ≤ data.toNat →
    ∃ t : State, exec (.decThrottle data tlm crc) s = .next t ∧
      t = { s with nets := { t.nets with
        raw48 := s.nets.raw48, corrected := s.nets.corrected, v := s.nets.v, word := s.nets.word, crc := s.nets.crc
        dataField := s.nets.dataField, telemetryRequest := s.nets.telemetryRequest, data := s.nets.data
        crcCheck := s.nets.crcCheck, crcOk := s.nets.crcOk
        record := { s.nets.record with
          tlm := tlm, crcRx := crc, crcCalc := s.nets.crcCheck, crcOk := s.nets.crcOk } } } ∧
      t.nets.kind = .throttle ∧ t.nets.code = 0 ∧ t.nets.value.toNat = data.toNat - 48 ∧ t.nets.value.toNat ≤ 1999 ∧
      t.nets.pctRem.toNat = (data.toNat - 48) * 10000 % 1999 ∧
      t.nets.pct.toNat = decodePct s.params.pctRound (data.toNat - 48)

/-- R144: quotient, remainder and rounded percent of one exact division, at widths that never overflow whatever the
11-bit value; nothing else is written. -/
def Obligations.ScaleIsOneExactDivision : Prop :=
  ∀ s : State, ∃ (num : Numerator) (q pct : Pct) (pctRem : PctRem),
    exec .scale s = .next { s with nets := { s.nets with num := num, q := q, pct := pct, pctRem := pctRem } } ∧
    num.toNat = s.nets.value.toNat * 10000 ∧ q.toNat = num.toNat / 1999 ∧ pctRem.toNat = num.toNat % 1999 ∧
    (s.params.pctRound = .trunc → pct = q) ∧
    (s.params.pctRound = .nearest → pct.toNat = q.toNat + (if 2 * pctRem.toNat ≥ 1999 then 1 else 0))

/-- The spec's own inference R146 (from R144), its facts (a) to (f), for every throttle value. -/
def Obligations.PercentExactnessFacts : Prop :=
  ∀ value : Value, value.toNat ≤ 1999 →
    (pctRemOf value = 0 ↔ value.toNat = 0 ∨ value.toNat = 1999) ∧
    pctOf .trunc 0 = 0 ∧ pctOf .nearest 0 = 0 ∧ pctOf .trunc 1999 = 10000 ∧ pctOf .nearest 1999 = 10000 ∧
    2 * (pctRemOf value).toNat ≠ 1999 ∧
    (∀ rounding : PctRound, value.toNat < 1999 →
      (pctOf rounding (value + 1)).toNat = (pctOf rounding value).toNat + 5 ∨
      (pctOf rounding (value + 1)).toNat = (pctOf rounding value).toNat + 6) ∧
    ((pctOf .nearest value).toNat = (pctOf .trunc value).toNat ∨
      (pctOf .nearest value).toNat = (pctOf .trunc value).toNat + 1) ∧
    (∀ rounding : PctRound, (pctOf rounding value).toNat ≤ 10000) ∧ (pctRemOf value).toNat ≤ 1998 ∧
    (pctOf .trunc value = 10000 ↔ value.toNat = 1999)

/-- The spec's own inference R147 (from R144): the roundings differ at exactly 999 of the 2000 values, the first 200
and the last 1998, and the values the rule names have the percents it names. -/
def Obligations.RoundingsDifferAt999Values : Prop :=
  ((List.range 2000).filter
    (fun n => pctOf .trunc (BitVec.ofNat 11 n) != pctOf .nearest (BitVec.ofNat 11 n))).length = 999 ∧
  (∀ n, n < 2000 → (n < 200 ∨ 1998 < n) → pctOf .trunc (BitVec.ofNat 11 n) = pctOf .nearest (BitVec.ofNat 11 n)) ∧
  pctOf .trunc 200 = 1000 ∧ pctOf .nearest 200 = 1001 ∧ pctOf .trunc 1998 = 9994 ∧ pctOf .nearest 1998 = 9995 ∧
  pctOf .trunc 1000 = 5002 ∧ pctOf .nearest 1000 = 5003 ∧ pctOf .trunc 999 = 4997 ∧ pctOf .nearest 999 = 4997

/-- R151: every field of the record from the value of its name, and the timestamps bit for bit from the ports; nothing
else is written; and in the record an accepted frame of 6 bytes gets, the fields that do not belong to its kind are 0.
-/
def Obligations.FormRecordGathersEveryField : Prop :=
  (∀ (s : State) (b : Bool), s.ports.inLen = 6 → ∃ t : State, exec (.accept b) s = .next t ∧
    t.r.record.tsStart = s.ports.inTsStart ∧ t.r.record.tsEnd = s.ports.inTsEnd ∧
    (t.r.record.kind ≠ .command → t.r.record.code = 0) ∧
    (t.r.record.kind ≠ .throttle → t.r.record.value = 0 ∧ t.r.record.pct = 0 ∧ t.r.record.pctRem = 0)) ∧
  ∀ s : State, exec .formRecord s = .next { s with nets := { s.nets with record :=
    { kind := s.nets.kind, tlm := s.nets.telemetryRequest, crcRx := s.nets.crc, crcCalc := s.nets.crcCheck
      crcOk := s.nets.crcOk, code := s.nets.code, value := s.nets.value, pct := s.nets.pct
      pctRem := s.nets.pctRem, word := s.nets.word, tsStart := s.ports.inTsStart, tsEnd := s.ports.inTsEnd } } }

/-- R201: DEC_LENERR forms the empty record of kind 3 with the frame's timestamps, reads no byte and writes no other
intermediate value. R201 guards it by a length other than 6; that the operand 6, which no value decodes to, is given
the same effect is the model's own choice (log entry 13). -/
def Obligations.LengthErrorFormsEmptyRecord : Prop :=
  ∀ (s : State) (len : Length), exec (.decLenerr len) s = .next { s with nets := { s.nets with record :=
    { kind := .lenerr, tlm := false, crcRx := 0, crcCalc := 0, crcOk := false, code := 0, value := 0, pct := 0
      pctRem := 0, word := 0, tsStart := s.ports.inTsStart, tsEnd := s.ports.inTsEnd } } }

/-- R203, R201: a byte count other than 6 gives kind 3 whatever the bytes are, a byte count of 6 never does, and the
stages write no intermediate value on a length error. -/
def Obligations.LengthErrorTakesPrecedence : Prop :=
  ∀ (s : State) (b : Bool), ∃ t : State, exec (.accept b) s = .next t ∧
    (s.ports.inLen ≠ 6 → t.r = { valid := true, record :=
        { kind := .lenerr, tlm := false, crcRx := 0, crcCalc := 0, crcOk := false, code := 0, value := 0, pct := 0
          pctRem := 0, word := 0, tsStart := s.ports.inTsStart, tsEnd := s.ports.inTsEnd } } ∧
      t.nets = { s.nets with record := t.r.record }) ∧
    (s.ports.inLen = 6 → t.r.record.kind ≠ .lenerr)

/-- The spec's own inference R153 (from R140 to R146): every record DECODE returns, for any byte count, capture and
rounding, is of one kind with its values in range. -/
def Obligations.DecodedRecordsAreInRange : Prop :=
  ∀ (rounding : PctRound) (len : Length) (data : Capture) (tsS tsE : Timestamp),
    (decodeFrame rounding len.toNat data.toNat tsS tsE).Legal ∧
    ((decodeFrame rounding len.toNat data.toNat tsS tsE).kind = .lenerr ↔ len ≠ 6)

/-! ### Transactions -/

/-- R171: ACCEPT writes DECODE of the frame on the ports into R, whole, and VALID; the parameters and the outside
world's levels are unchanged. -/
def Obligations.AcceptWritesDecodeOfTheFrame : Prop :=
  ∀ (s : State) (b : Bool), ∃ t : State, exec (.accept b) s = .next t ∧
    t.r = { valid := true, record := s.ports.decoded s.params.pctRound } ∧
    t.params = s.params ∧ t.ports = s.ports ∧ t.stimulus = s.stimulus

/-- R172: ACCEPT_RETIRE writes the new frame's record in the old one's place; at the edge that selects it the old
record counts as consumed. -/
def Obligations.AcceptRetireWritesTheNewRecord : Prop :=
  (∀ s : State, s.selected = .acceptRetire → s.retiredNow = [s.r.record] ∧ s.acceptedNow = [s.ports.frame]) ∧
  ∀ s : State, ∃ t : State, exec .acceptRetire s = .next t ∧
    t.r = { valid := true, record := s.ports.decoded s.params.pctRound } ∧
    t.params = s.params ∧ t.ports = s.ports ∧ t.stimulus = s.stimulus

/-- R173: RETIRE clears VALID; the other fields keep their values, and nothing else changes; it is selected only where
a record is held. -/
def Obligations.RetireClearsValidAlone : Prop :=
  ∀ s : State, exec .retire s = .next { s with r := { valid := false, record := s.r.record } } ∧
    (s.selected = .retire → s.r.valid = true)

/-- R174 to R176: IDLE, HOLD and STALL write nothing, and at the edges that select them nothing is accepted or
retired: `in_ready` is 0 where STALL is selected. -/
def Obligations.IdleHoldAndStallWriteNothing : Prop :=
  (∀ (s : State) (b : Bool), exec (.idle b) s = .next s ∧ exec .hold s = .next s ∧ exec .stall s = .next s) ∧
  ∀ s : State, ((∃ b, s.selected = .idle b) ∨ s.selected = .hold ∨ s.selected = .stall →
      s.acceptedNow = [] ∧ s.retiredNow = []) ∧
    (s.selected = .stall → s.inReady = false ∧ s.ports.inValid = true)

/-- R230: RESET clears VALID; no other field is written, whatever the handshake inputs are; while `rst == 1` it is the
operation selected and `in_ready` is 0. -/
def Obligations.ResetEdgeClearsValidAlone : Prop :=
  ∀ (s : State) (a b c : Bool),
    exec (.reset a b c) s = .next { s with r := { valid := false, record := s.r.record } } ∧
    (s.ports.rst = true → s.inReady = false ∧ s.selected = .reset s.ports.inValid s.r.valid s.ports.outReady)

/-- The operations an accepted frame's own bits select, each run by exec in the order of R152, form the very record
ACCEPT writes into R: on the decode path the capture's stages, then the word's, then FORM_RECORD; on a length error
DEC_LENERR alone. -/
def Obligations.AcceptRunsTheFramesOperations : Prop :=
  ∀ (s : State) (b : Bool), ∃ a : State, exec (.accept b) s = .next a ∧
    (s.ports.inLen = 6 → ∃ t u : State,
      runOps (program (.fCap s.ports.inData)) s = .next t ∧
      runOps (program (.fWord t.nets.word) ++ program .fRec) t = .next u ∧
      a = { u with r := { valid := true, record := u.nets.record } }) ∧
    (s.ports.inLen ≠ 6 → ∃ u : State, runOps (program (.fLen s.ports.inLen)) s = .next u ∧
      a = { u with r := { valid := true, record := u.nets.record } })

/-- R30: only the transaction operations write R; and no operation writes the build parameters or the outside world's
levels (R20). -/
def Obligations.OnlyTransactionsWriteTheRegister : Prop :=
  ∀ (i : Instr) (s t : State), exec i s = .next t →
    t.params = s.params ∧ t.ports = s.ports ∧ t.stimulus = s.stimulus ∧
    (isTransaction i = false → t.r = s.r) ∧
    (t.r.record ≠ s.r.record → (∃ b, i = .accept b) ∨ i = .acceptRetire)

/-! ### One edge -/

/-- A step runs the operation the handshake vector decodes to, and then the outside world drives the next levels: the
next line of the stimulus, a field left out keeping its value, or the same levels where no line is left (R89; the
model's choice, log entry 5). -/
def Obligations.StepRunsTheDecodedOperation : Prop :=
  ∀ (s t : State) (i : Instr), decode (.fHs s.hs) = .ok i → exec i s = .next t →
    ∃ u : State, step s = .next u ∧ u.params = t.params ∧ u.r = t.r ∧ u.nets = t.nets ∧
      (t.stimulus = [] → u = t) ∧
      ∀ l rest, t.stimulus = l :: rest → u.stimulus = rest ∧
        u.ports.rst = l.rst.getD t.ports.rst ∧ u.ports.inValid = l.inValid.getD t.ports.inValid ∧
        u.ports.inLen = l.len.getD t.ports.inLen ∧ u.ports.inData = l.data.getD t.ports.inData ∧
        (u.ports.inTsStart, u.ports.inTsEnd) = l.ts.getD (t.ports.inTsStart, t.ports.inTsEnd) ∧
        u.ports.outReady = l.outReady.getD t.ports.outReady

/-- R170: the whole sequential behaviour of the block at one rising edge. -/
def Obligations.EdgeFollowsTheStepFunction : Prop :=
  ∀ s : State, ∃ t : State, step s = .next t ∧
    t.r = if s.ports.rst then { valid := false, record := s.r.record }
      else if s.ports.inValid && (!s.r.valid || s.ports.outReady) then
        { valid := true, record := s.ports.decoded s.params.pctRound }
      else if s.r.valid && s.ports.outReady then { valid := false, record := s.r.record }
      else s.r

/-- R200: no operation and no edge stops the block. -/
def Obligations.NoOperationStopsTheBlock : Prop :=
  (∀ (i : Instr) (s : State), ∃ t : State, exec i s = .next t) ∧ ∀ s : State, ∃ t : State, step s = .next t

/-- R25, R14: an edge takes the frame offered exactly where `in_valid` and `in_ready` are both 1. -/
def Obligations.FrameIsTakenExactlyWhenReady : Prop :=
  ∀ s : State,
    (s.inReady = true ↔ s.ports.rst = false ∧ (s.r.valid = false ∨ s.ports.outReady = true)) ∧
    (((∃ b, s.selected = .accept b) ∨ s.selected = .acceptRetire) ↔ s.ports.inValid = true ∧ s.inReady = true)

/-- R32: there is no state but R (what an edge leaves in R depends on R, the input ports and the rounding, not on any
value left over in the model), and what an accept edge writes depends on `in_len`, `in_data`, the two timestamps and
the rounding alone: not on `out_ready`, and never on an earlier frame. -/
def Obligations.RecordDependsOnItsFrameAlone : Prop :=
  (∀ (s t : State), s.r = t.r → s.ports = t.ports → s.params.pctRound = t.params.pctRound →
    ∃ s' t' : State, step s = .next s' ∧ step t = .next t' ∧ s'.r = t'.r) ∧
  ∀ (s t : State), s.ports.frame = t.ports.frame → s.params.pctRound = t.params.pctRound →
    s.accepts = true → t.accepts = true →
    ∃ s' t' : State, step s = .next s' ∧ step t = .next t' ∧ s'.r = t'.r

/-- The spec's own inference R231 (from R230): at a reset edge no record is retired and no frame is accepted, and the
record held is discarded. -/
def Obligations.ResetDiscardsWithoutRetiring : Prop :=
  ∀ s : State, s.ports.rst = true → s.acceptedNow = [] ∧ s.retiredNow = [] ∧
    ∃ t : State, step s = .next t ∧ t.r.valid = false ∧ t.r.record = s.r.record

/-- R241, R26, R24, R81: the consumer reads `out_valid` at any time, every other port while it is 1 with the value of
its register field, KIND as the code R81 gives its name (0 DISARMED, 1 COMMAND, 2 THROTTLE, 3 LENERR), and breaks its
duty otherwise (log entry 7). -/
def Obligations.ConsumerReadsOnlyAValidRecord : Prop :=
  ∀ s : State,
    readOutput .outValid s = .next s.r.valid.toNat ∧
    (s.r.valid = false → ∀ p, p ≠ OutPort.outValid → readOutput p s = .fault .payloadReadWhileNotValid) ∧
    (s.r.valid = true →
      (s.r.record.kind = .disarmed → readOutput .outKind s = .next 0) ∧
      (s.r.record.kind = .command → readOutput .outKind s = .next 1) ∧
      (s.r.record.kind = .throttle → readOutput .outKind s = .next 2) ∧
      (s.r.record.kind = .lenerr → readOutput .outKind s = .next 3) ∧
      readOutput .outKind s = .next s.r.record.kind.code.toNat ∧ readOutput .outTlm s = .next s.r.record.tlm.toNat ∧
      readOutput .outCrcRx s = .next s.r.record.crcRx.toNat ∧ readOutput .outCrcCalc s = .next s.r.record.crcCalc.toNat ∧
      readOutput .outCrcOk s = .next s.r.record.crcOk.toNat ∧ readOutput .outCode s = .next s.r.record.code.toNat ∧
      readOutput .outValue s = .next s.r.record.value.toNat ∧ readOutput .outPct s = .next s.r.record.pct.toNat ∧
      readOutput .outPctRem s = .next s.r.record.pctRem.toNat ∧ readOutput .outWord s = .next s.r.record.word.toNat ∧
      readOutput .outTsStart s = .next s.r.record.tsStart ∧ readOutput .outTsEnd s = .next s.r.record.tsEnd)

/-- A word of the table offered to the machine right after reset is accepted at the very next edge, and R holds the
record of that word (the host's question; log entry 10). -/
def Obligations.OfferedWordRunsFirstAfterReset : Prop :=
  ∀ w : Nat, w < 65536 → ∃ t : State, step (State.reset.withFetchWord 16 w) = .next t ∧
    t.r = { valid := true, record := decodeWordRecord .trunc w 0 0 }

/-- A handshake vector placed by `withFetchWord` is the one the next edge selects its operation by, and the decoder
reads that operation from it (the host's question; log entry 10). -/
def Obligations.PlacedVectorIsTheOneSelected : Prop :=
  ∀ (s : State) (w : Nat), w < 16 → (s.withFetchWord 8 w).hs = BitVec.ofNat 4 w ∧
    decodeTableWord 8 w = some (s.withFetchWord 8 w).selected

/-! ### Reset and runs -/

/-- R234, R9: after reset VALID is 0, the parameters are the reference ones, and a frame can be accepted at the first
edge with `rst == 0` (R235). The invariant's clause on the payload after reset, which the spec leaves unspecified,
rests on the model's own choice of it (log entry 6), and its clauses on the ports and the stimulus on log entries 5
and 8. -/
def Obligations.ResetStateAcceptsAtOnce : Prop :=
  State.reset.r.valid = false ∧ State.reset.params = { tsW := 64, pctRound := .trunc } ∧
  (∀ p : Ports, p.rst = false → ({ State.reset with ports := p } : State).inReady = true) ∧ State.reset.Inv

/-- R232: any number of reset edges leaves R as the first one does. -/
def Obligations.OneResetEdgeSuffices : Prop :=
  ∀ (n : Nat) (s : State), (∀ k, k ≤ n → (s.after k).ports.rst = true) →
    (s.after (n + 1)).r = s.edge.r ∧ s.edge.r.valid = false

/-- The spec's own inference R31 (from R25 and R171 to R176): the fields other than VALID change only at an accept
edge, which for a held record needs `out_ready == 1`; so while a consumer holds `out_ready == 0` and there is no
reset, the register stays the same for as many edges as that lasts. -/
def Obligations.HeldRecordIsImmutable : Prop :=
  (∀ s t : State, step s = .next t → t.r.record ≠ s.r.record →
    s.accepts = true ∧ (s.r.valid = true → s.ports.outReady = true ∧ s.retires = true)) ∧
  ∀ (n : Nat) (s : State), s.r.valid = true →
    (∀ k, k < n → (s.after k).ports.rst = false ∧ (s.after k).ports.outReady = false) → (s.after n).r = s.r

/-- The spec's own inference R178 (from R170 and R176): a frame offered and held stable is accepted at the first edge
with `rst == 0` at which R is empty or the consumer is ready, and at none before; a record is retired at the first
edge with `out_ready == 1`; and while the consumer is never ready the block takes HOLD or STALL at every edge,
forever. -/
def Obligations.StableOfferIsAcceptedAtFirstChance : Prop :=
  (∀ (n : Nat) (s : State),
    (∀ k, k ≤ n → (s.after k).ports.inValid = true ∧ (s.after k).ports.frame = s.ports.frame) →
    (∀ k, k < n → ¬((s.after k).ports.rst = false ∧
      ((s.after k).r.valid = false ∨ (s.after k).ports.outReady = true))) →
    (s.after n).ports.rst = false → ((s.after n).r.valid = false ∨ (s.after n).ports.outReady = true) →
    s.acceptedOver n = [] ∧ (s.after n).acceptedNow = [s.ports.frame] ∧
    (s.after (n + 1)).r = { valid := true, record := s.ports.frame.decoded s.params.pctRound }) ∧
  (∀ (n : Nat) (s : State), s.r.valid = true →
    (∀ k, k < n → (s.after k).ports.rst = false ∧ (s.after k).ports.outReady = false) →
    ((s.after n).ports.rst = false → (s.after n).ports.outReady = true →
      s.retiredOver n = [] ∧ (s.after n).retiredNow = [s.r.record]) ∧
    ∀ k, k < n → (s.after k).selected = .hold ∨ (s.after k).selected = .stall)

/-- The spec's own inference R177 (from R170 to R176): between two reset edges (a) the records retired, and the one
still held, are DECODE of the frames accepted, in their order, none dropped and none repeated, after the record held
at the start; (b) a record is retired no later than the edge that accepts the next frame; (c) an accepted frame's
record is held from the next edge on, unchanged until its retire edge. -/
def Obligations.RetiredRecordsAreTheAcceptedFramesInOrder : Prop :=
  (∀ (n : Nat) (s : State), s.noReset n →
    s.retiredOver n ++ (s.after n).held =
      s.held ++ (s.acceptedOver n).map (Frame.decoded s.params.pctRound)) ∧
  ∀ (n : Nat) (s : State), (s.after n).ports.rst = false →
    ((s.after n).acceptedNow ≠ [] → (s.after n).retiredNow = (s.after n).held) ∧
    (∀ f, (s.after n).acceptedNow = [f] → (s.after (n + 1)).held = [f.decoded s.params.pctRound]) ∧
    ((s.after n).acceptedNow = [] → (s.after n).retiredNow = [] → (s.after (n + 1)).held = (s.after n).held)

/-- Every edge keeps the invariant: legal values (R30), one frame's record and never two's (R57), timestamps of the
ports' width. -/
def Obligations.EveryEdgeKeepsTheInvariant : Prop :=
  ∀ s t : State, s.Inv → step s = .next t → t.Inv
end

