-- ==== Sys2Proof/Laws/Decode.lean ====
section
/-! SUPPORT. Laws/Decode.lean: the fields of a word and the word of fields, bit by bit (spec/30_encoding.md R73, R74),
and that the pieces fit: a word is made of its own fields, and fields come back out of the word made of them. -/

namespace Sys2Proof

theorem wordData_bit (w : Word) (i : Nat) : (wordData w).getLsbD i = (decide (i < 11) && w.getLsbD (5 + i)) := by
  simp [wordData]

theorem wordCrc_bit (w : Word) (i : Nat) : (wordCrc w).getLsbD i = (decide (i < 4) && w.getLsbD i) := by
  simp [wordCrc]

/-- The data value as a number. -/
theorem wordData_toNat (w : Word) : (wordData w).toNat = w.toNat / 32 := by
  simp only [wordData, BitVec.extractLsb'_toNat, Nat.shiftRight_eq_div_pow]
  omega

theorem mkWord_bit (data : Data) (tlm : Bool) (crc : Crc) (i : Nat) (hi : i < 16) :
    (mkWord data tlm crc).getLsbD i = if i < 4 then crc.getLsbD i else if i = 4 then tlm else data.getLsbD (i - 5) := by
  unfold mkWord
  simp only [BitVec.getLsbD_or, BitVec.getLsbD_shiftLeft, BitVec.getLsbD_setWidth, BitVec.getLsbD_ofBool]
  interval_cases i <;> simp [BitVec.getLsbD_of_ge]

theorem wordData_mkWord (data : Data) (tlm : Bool) (crc : Crc) : wordData (mkWord data tlm crc) = data := by
  apply BitVec.eq_of_getLsbD_eq
  intro i hi
  rw [wordData_bit, mkWord_bit _ _ _ _ (by omega), if_neg (by omega), if_neg (by omega)]
  simp [hi]

theorem wordTlm_mkWord (data : Data) (tlm : Bool) (crc : Crc) : wordTlm (mkWord data tlm crc) = tlm := by
  rw [wordTlm, mkWord_bit _ _ _ _ (by omega), if_neg (by omega), if_pos rfl]

theorem wordCrc_mkWord (data : Data) (tlm : Bool) (crc : Crc) : wordCrc (mkWord data tlm crc) = crc := by
  apply BitVec.eq_of_getLsbD_eq
  intro i hi
  rw [wordCrc_bit, mkWord_bit _ _ _ _ (by omega), if_pos hi]
  simp [hi]

theorem mkWord_fields (w : Word) : mkWord (wordData w) (wordTlm w) (wordCrc w) = w := by
  apply BitVec.eq_of_getLsbD_eq
  intro i hi
  rw [mkWord_bit _ _ _ _ hi, wordCrc_bit, wordData_bit, wordTlm]
  interval_cases i <;> simp

/-- The bits of R85's masks are data bits, so a row sees the data value alone. -/
theorem word_and_dataMask (w : Word) : w &&& 0xFFE0 = mkWord (wordData w) false 0 := by
  apply BitVec.eq_of_getLsbD_eq
  intro i hi
  rw [mkWord_bit _ _ _ _ hi, BitVec.getLsbD_and, wordData_bit]
  interval_cases i <;> simp

theorem accepts_dataOnly {row : WordRow} (h : (0xFFE0 : Word) &&& row.mask = row.mask) (w : Word) :
    row.accepts w = row.accepts (mkWord (wordData w) false 0) := by
  unfold WordRow.accepts
  rw [← word_and_dataMask, BitVec.and_assoc, h]

end Sys2Proof
end

