-- ==== Sys2Proof/Laws/PerInstr.lean ====
section
/-! SUPPORT. Laws/PerInstr.lean: the family TableRow: a well-formed operation's encoding matches that operation's own
row of spec/opcode_table.json (spec/30_encoding.md R85, R86). -/

namespace Sys2Proof.Laws.TableRow

/-- The encoding matches the operation's row. -/
def Statement (i : Instr) : Prop := i.wellFormed = true → rowAccepts i (encode i) = true

/-- A list of rows whose masks are data bits accepts a word exactly where it accepts its data value. -/
theorem anyRow_mkWord {rows : List WordRow} (h : ∀ row ∈ rows, (0xFFE0 : Word) &&& row.mask = row.mask)
    (data : Data) (tlm : Bool) (crc : Crc) : anyRow rows (mkWord data tlm crc) = anyRow rows (mkWord data false 0) := by
  unfold anyRow
  rw [Bool.eq_iff_iff, List.any_eq_true, List.any_eq_true]
  have key : ∀ row ∈ rows, row.accepts (mkWord data tlm crc) = row.accepts (mkWord data false 0) := fun row hr => by
    rw [accepts_dataOnly (h row hr) (mkWord data tlm crc), wordData_mkWord]
  exact ⟨fun ⟨row, hr, ha⟩ => ⟨row, hr, by rw [← key row hr]; exact ha⟩,
    fun ⟨row, hr, ha⟩ => ⟨row, hr, by rw [key row hr]; exact ha⟩⟩

theorem commandRows_cover : ∀ data : Data, 1 ≤ data.toNat → data.toNat ≤ 47 →
    anyRow commandRows (mkWord data false 0) = true := by
  decide +kernel

theorem throttleRows_cover : ∀ data : Data, 48 ≤ data.toNat → anyRow throttleRows (mkWord data false 0) = true := by
  decide +kernel

theorem decDisarmed (tlm : Bool) (crc : Crc) : Statement (.decDisarmed tlm crc) := fun _ => by
  show anyRow disarmedRows (mkWord 0 tlm crc) = true
  rw [anyRow_mkWord (by decide)]
  decide

theorem decCommand (data : Data) (tlm : Bool) (crc : Crc) : Statement (.decCommand data tlm crc) := fun h => by
  show anyRow commandRows (mkWord data tlm crc) = true
  simp only [Instr.wellFormed, Bool.and_eq_true, decide_eq_true_eq] at h
  rw [anyRow_mkWord (by decide)]
  exact commandRows_cover data h.1 h.2

theorem decThrottle (data : Data) (tlm : Bool) (crc : Crc) : Statement (.decThrottle data tlm crc) := fun h => by
  show anyRow throttleRows (mkWord data tlm crc) = true
  simp only [Instr.wellFormed, decide_eq_true_eq] at h
  rw [anyRow_mkWord (by decide)]
  exact throttleRows_cover data h

theorem decLenerr (len : Length) : Statement (.decLenerr len) := by
  revert len
  unfold Statement
  decide +kernel

theorem reset (inValid valid outReady : Bool) : Statement (.reset inValid valid outReady) := fun _ => by
  cases inValid <;> cases valid <;> cases outReady <;> rfl

theorem idle (outReady : Bool) : Statement (.idle outReady) := fun _ => by cases outReady <;> rfl

theorem hold : Statement .hold := fun _ => rfl

theorem retire : Statement .retire := fun _ => rfl

theorem accept (outReady : Bool) : Statement (.accept outReady) := fun _ => by cases outReady <;> rfl

theorem stall : Statement .stall := fun _ => rfl

theorem acceptRetire : Statement .acceptRetire := fun _ => rfl

theorem assemble : Statement .assemble := fun _ => rfl

theorem polarity : Statement .polarity := fun _ => rfl

theorem align : Statement .align := fun _ => rfl

theorem decimate : Statement .decimate := fun _ => rfl

theorem extractCrc : Statement .extractCrc := fun _ => rfl

theorem extractDf : Statement .extractDf := fun _ => rfl

theorem extractTlm : Statement .extractTlm := fun _ => rfl

theorem extractData : Statement .extractData := fun _ => rfl

theorem crc4 : Statement .crc4 := fun _ => rfl

theorem crcVerdict : Statement .crcVerdict := fun _ => rfl

theorem classify : Statement .classify := fun _ => rfl

theorem scale : Statement .scale := fun _ => rfl

theorem formRecord : Statement .formRecord := fun _ => rfl

end Sys2Proof.Laws.TableRow
end

