-- ==== Sys2Proof/Laws/Values.lean ====
section
/-! SUPPORT. Laws/Values.lean: one lemma for each value function, as bits or as a number, so that no later proof
unfolds one. -/

namespace Sys2Proof.Machine

open Sys2Proof.Config

/-! ### Bit recovery -/

/-- Assembling the lanes gives `in_data` back (R53). -/
theorem assembleCapture_eq (d : Capture) : assembleCapture d = d := by
  have key : ∀ a b : Nat, b % 2 ^ 8 = b → a <<< 8 ||| b = a * 256 + b := by
    intro a b hb
    rw [← Nat.shiftLeft_add_eq_or_of_lt (by omega), Nat.shiftLeft_eq]
  apply BitVec.eq_of_toNat_eq
  have := d.isLt
  simp only [assembleCapture, assembleBytes, bufferByte, BitVec.toNat_append, BitVec.extractLsb'_toNat,
    Nat.shiftRight_eq_div_pow]
  rw [key _ _ (by omega), key _ _ (by omega), key _ _ (by omega), key _ _ (by omega), key _ _ (by omega)]
  omega

theorem correctPolarity_bit (c : Capture) (k : Nat) (h : k < 48) : (correctPolarity c).getLsbD k = !c.getLsbD k := by
  unfold correctPolarity
  rw [BitVec.getLsbD_xor, show (0xFFFFFFFFFFFF : Capture) = BitVec.allOnes 48 from rfl, BitVec.getLsbD_allOnes]
  simp [h]

theorem alignCapture_bit (c : Capture) (k : Nat) (h : k ≤ 48) :
    (alignCapture c).getLsbD k = (decide (k = 0) || c.getLsbD (k - 1)) := by
  unfold alignCapture
  simp only [BitVec.getLsbD_or, BitVec.getLsbD_shiftLeft, BitVec.getLsbD_setWidth]
  by_cases h0 : k = 0
  · subst h0; simp
  · simp [h0, show k < 49 by omega, show ¬ k < 1 by omega]; omega

/-- Every iteration moves the word up one bit and takes the tap of the next window. -/
theorem decimateLoop_bit (n : Nat) (v : Working) (w : Word) (j : Nat) (hj : j < 16) (hn : n ≤ 16) :
    (decimateLoop n v w).2.getLsbD j = if j < n then v.getLsbD (3 * (n - 1 - j) + 1) else w.getLsbD (j - n) := by
  induction n generalizing v w with
  | zero => simp [decimateLoop]
  | succ n ih =>
    rw [decimateLoop, ih _ _ (by omega)]
    by_cases h : j < n
    · simp only [h, if_true, show j < n + 1 by omega, BitVec.getLsbD_ushiftRight, oversample]
      congr 1
      omega
    · by_cases h2 : j = n
      · subst h2
        simp
        split <;> rename_i hh <;> simp [hh]
      · simp only [h, if_false, show ¬ j < n + 1 by omega]
        have e1 : j - n < 16 := by omega
        have e2 : ¬ j - n < 1 := by omega
        have e3 : j - n - 1 = j - (n + 1) := by omega
        have e4 : ¬ j - n = 0 := by omega
        split <;> simp [e1, e2, e3, e4] <;> rw [BitVec.getLsbD_eq_getElem]

/-! ### Fields and checksum -/

theorem wordToDataField_bit (w : Word) (j : Nat) : (wordToDataField w).getLsbD j = w.getLsbD (j + 4) := by
  unfold wordToDataField
  simp only [BitVec.getLsbD_setWidth, BitVec.getLsbD_ushiftRight]
  by_cases h : j < 12
  · simp [h, Nat.add_comm]
  · simp [h, BitVec.getLsbD_of_ge w (j + 4) (by omega)]

theorem wordToDataField_toNat (w : Word) : (wordToDataField w).toNat = w.toNat >>> 4 := by
  unfold wordToDataField
  simp only [BitVec.toNat_setWidth, BitVec.toNat_ushiftRight, Nat.shiftRight_eq_div_pow]
  omega

theorem wordToCrc_bit (w : Word) (j : Nat) (hj : j < 4) : (wordToCrc w).getLsbD j = w.getLsbD j := by
  unfold wordToCrc
  simp only [BitVec.getLsbD_setWidth, BitVec.getLsbD_and]
  interval_cases j <;> simp

theorem wordToCrc_toNat (w : Word) : (wordToCrc w).toNat = w.toNat &&& 0xF := by
  unfold wordToCrc
  rw [BitVec.toNat_setWidth, BitVec.toNat_and]
  exact Nat.mod_eq_of_lt (Nat.lt_of_le_of_lt Nat.and_le_right (by decide : 15 < 16))

theorem fieldToData_toNat (f : DataField) : (fieldToData f).toNat = f.toNat >>> 1 := by
  unfold fieldToData
  simp only [BitVec.toNat_setWidth, BitVec.toNat_ushiftRight, Nat.shiftRight_eq_div_pow]
  omega

theorem fieldToTlm_eq (f : DataField) : fieldToTlm f = f.getLsbD 0 := by
  have h : f &&& 1 = if f.getLsbD 0 then 1 else 0 := by
    apply BitVec.eq_of_getLsbD_eq
    intro i hi
    rw [BitVec.getLsbD_and]
    by_cases h0 : i = 0
    · subst h0
      cases f.getLsbD 0 <;> simp
    · split <;> simp [h0]
  unfold fieldToTlm
  rw [h]
  cases f.getLsbD 0 <;> rfl

theorem crcFold_bit (f : DataField) (j : Nat) (hj : j < 4) :
    (crcFold f).getLsbD j = (f.getLsbD j ^^ f.getLsbD (j + 4) ^^ f.getLsbD (j + 8)) := by
  unfold crcFold
  simp only [BitVec.getLsbD_setWidth, BitVec.getLsbD_and, BitVec.getLsbD_xor, BitVec.getLsbD_ushiftRight]
  interval_cases j <;> simp

theorem crcFold_toNat (f : DataField) :
    (crcFold f).toNat = (f.toNat ^^^ (f.toNat >>> 4) ^^^ (f.toNat >>> 8)) &&& 0xF := by
  unfold crcFold
  rw [BitVec.toNat_setWidth, BitVec.toNat_and, BitVec.toNat_xor, BitVec.toNat_xor, BitVec.toNat_ushiftRight,
    BitVec.toNat_ushiftRight]
  exact Nat.mod_eq_of_lt (Nat.lt_of_le_of_lt Nat.and_le_right (by decide : 15 < 16))

theorem flipBit_bit (w : Word) (p j : Nat) (hj : j < 16) :
    (flipBit w p).getLsbD j = (w.getLsbD j ^^ decide (j = p)) := by
  unfold flipBit
  rw [BitVec.getLsbD_xor, BitVec.getLsbD_shiftLeft]
  congr 1
  by_cases h : j = p
  · subst h; simp [hj]
  · simp [hj, h]; omega

/-! ### Scaling -/

theorem throttleValue_toNat (data : Data) (h : 48 ≤ data.toNat) : (throttleValue data).toNat = data.toNat - 48 := by
  unfold throttleValue
  rw [BitVec.toNat_sub]
  simp only [thrOffset, BitVec.toNat_ofNat]
  omega

theorem scaleNum_toNat (v : Value) : (scaleNum v).toNat = v.toNat * 10000 := by
  have := v.isLt
  show (BitVec.ofNat 25 (v.toNat * 10000)).toNat = _
  rw [BitVec.toNat_ofNat, Nat.mod_eq_of_lt (by omega)]

theorem scaleQuot_toNat (v : Value) : (scaleQuot (scaleNum v)).toNat = v.toNat * 10000 / 1999 := by
  have := v.isLt
  show (BitVec.ofNat 14 ((scaleNum v).toNat / 1999)).toNat = _
  rw [scaleNum_toNat, BitVec.toNat_ofNat, Nat.mod_eq_of_lt (by omega)]

theorem scaleRem_toNat (v : Value) : (scaleRem (scaleNum v)).toNat = v.toNat * 10000 % 1999 := by
  show (BitVec.ofNat 11 ((scaleNum v).toNat % 1999)).toNat = _
  rw [scaleNum_toNat, BitVec.toNat_ofNat, Nat.mod_eq_of_lt (by omega)]

theorem pctOf_toNat (rounding : PctRound) (v : Value) : (pctOf rounding v).toNat = decodePct rounding v.toNat := by
  have := v.isLt
  unfold pctOf
  cases rounding with
  | trunc => exact scaleQuot_toNat v
  | nearest =>
    simp only [roundPct, decodePct, scaleRem_toNat, ge_iff_le]
    rw [BitVec.toNat_add, scaleQuot_toNat]
    split <;> simp <;> omega

end Sys2Proof.Machine
end

