-- ==== Sys2Proof/Laws/Pipeline.lean ====
section
/-! SUPPORT. Laws/Pipeline.lean: what the shared operations over the intermediate values leave, each said once. -/

namespace Sys2Proof.Machine

open Sys2Proof.Config

/-- The stages of bit recovery and of the demultiplexer, as one update: every value is a function of the capture. -/
theorem Nets.demux_recover (p : Ports) (n : Nets) : (n.recover p).demux =
    { n with
      raw48 := assembleCapture p.inData
      corrected := correctPolarity (assembleCapture p.inData)
      v := alignCapture (correctPolarity (assembleCapture p.inData))
      word := (n.recover p).word
      crc := wordToCrc (n.recover p).word
      dataField := wordToDataField (n.recover p).word
      telemetryRequest := fieldToTlm (wordToDataField (n.recover p).word)
      data := fieldToData (wordToDataField (n.recover p).word)
      crcCheck := crcFold (wordToDataField (n.recover p).word)
      crcOk := crcVerdict (crcFold (wordToDataField (n.recover p).word)) (wordToCrc (n.recover p).word) } := rfl

theorem Nets.recover_word (p : Ports) (n : Nets) :
    (n.recover p).word = decimateWord (alignCapture (correctPolarity (assembleCapture p.inData))) := rfl

/-- A length error writes the record alone. -/
theorem Nets.settle_lenErr (rounding : PctRound) (n : Nets) {p : Ports} (h : p.inLen ≠ 6) :
    n.settle rounding p = n.lenErr p := by
  unfold Nets.settle
  rw [if_neg h]

theorem Nets.settle_sixBytes (rounding : PctRound) (n : Nets) {p : Ports} (h : p.inLen = 6) :
    n.settle rounding p = ((n.recover p).demux).conclude rounding p := by
  unfold Nets.settle
  rw [if_pos h]

/-- Scaling value 0 gives 0 under both roundings, so SCALE on a frame that is no throttle writes what its decode
operation wrote. -/
theorem scale_zero (rounding : PctRound) :
    roundPct rounding (scaleQuot (scaleNum 0)) 0 = 0 ∧ scaleRem (scaleNum 0) = 0 := by
  cases rounding <;> decide

theorem Nets.conclude_disarmed (rounding : PctRound) (p : Ports) (n : Nets) (h : n.data = 0) :
    (n.conclude rounding p).record =
    { kind := .disarmed, tlm := n.telemetryRequest, crcRx := n.crc, crcCalc := n.crcCheck, crcOk := n.crcOk, code := 0
      value := 0, pct := 0, pctRem := 0, word := n.word, tsStart := p.inTsStart, tsEnd := p.inTsEnd } := by
  obtain ⟨h1, h2⟩ := scale_zero rounding
  have hk : n.classify.kind = .disarmed := by simp [Nets.classify, classifyData, h]
  simp only [Nets.conclude, Nets.formRecord, Nets.selectedClass, hk, Nets.disarmed, Nets.setClass, Nets.writeFlags,
    Nets.scale, h1, h2]
  rfl

theorem Nets.conclude_command (rounding : PctRound) (p : Ports) (n : Nets) (h : n.data ≠ 0)
    (h' : n.data.toNat ≤ 47) : (n.conclude rounding p).record =
    { kind := .command, tlm := n.telemetryRequest, crcRx := n.crc, crcCalc := n.crcCheck, crcOk := n.crcOk
      code := commandCode n.data, value := 0, pct := 0, pctRem := 0, word := n.word, tsStart := p.inTsStart
      tsEnd := p.inTsEnd } := by
  obtain ⟨h1, h2⟩ := scale_zero rounding
  have hk : n.classify.kind = .command := by
    unfold Nets.classify classifyData
    simp only
    rw [if_neg h, if_pos h']
  simp only [Nets.conclude, Nets.formRecord, Nets.selectedClass, hk, Nets.command, Nets.setClass, Nets.writeFlags,
    Nets.scale, h1, h2]
  rfl

theorem Nets.conclude_throttle (rounding : PctRound) (p : Ports) (n : Nets) (h : n.data ≠ 0)
    (h' : ¬ n.data.toNat ≤ 47) : (n.conclude rounding p).record =
    { kind := .throttle, tlm := n.telemetryRequest, crcRx := n.crc, crcCalc := n.crcCheck, crcOk := n.crcOk, code := 0
      value := throttleValue n.data, pct := pctOf rounding (throttleValue n.data)
      pctRem := pctRemOf (throttleValue n.data), word := n.word, tsStart := p.inTsStart, tsEnd := p.inTsEnd } := by
  have hk : n.classify.kind = .throttle := by
    unfold Nets.classify classifyData
    simp only
    rw [if_neg h, if_neg h']
  simp only [Nets.conclude, Nets.formRecord, Nets.selectedClass, hk, Nets.throttle, Nets.setClass, Nets.writeFlags,
    Nets.scale]
  rfl

end Sys2Proof.Machine
end

