-- ==== Sys2Proof/Laws/State.lean ====
section
/-! SUPPORT. Laws/State.lean: what each update of the state and of the intermediate values leaves and writes, field by
field. -/

namespace Sys2Proof.Machine

/-! ### `setNets` -/

@[simp] theorem State.setNets_params (s : State) (n : Nets) : (s.setNets n).params = s.params := rfl
@[simp] theorem State.setNets_r (s : State) (n : Nets) : (s.setNets n).r = s.r := rfl
@[simp] theorem State.setNets_nets (s : State) (n : Nets) : (s.setNets n).nets = n := rfl
@[simp] theorem State.setNets_ports (s : State) (n : Nets) : (s.setNets n).ports = s.ports := rfl
@[simp] theorem State.setNets_stimulus (s : State) (n : Nets) : (s.setNets n).stimulus = s.stimulus := rfl

/-! ### `setValid` -/

@[simp] theorem State.setValid_params (s : State) (v : Bool) : (s.setValid v).params = s.params := rfl
@[simp] theorem State.setValid_valid (s : State) (v : Bool) : (s.setValid v).r.valid = v := rfl
@[simp] theorem State.setValid_record (s : State) (v : Bool) : (s.setValid v).r.record = s.r.record := rfl
@[simp] theorem State.setValid_nets (s : State) (v : Bool) : (s.setValid v).nets = s.nets := rfl
@[simp] theorem State.setValid_ports (s : State) (v : Bool) : (s.setValid v).ports = s.ports := rfl
@[simp] theorem State.setValid_stimulus (s : State) (v : Bool) : (s.setValid v).stimulus = s.stimulus := rfl

/-! ### `takeFrame` -/

@[simp] theorem State.takeFrame_params (s : State) : s.takeFrame.params = s.params := rfl
@[simp] theorem State.takeFrame_valid (s : State) : s.takeFrame.r.valid = true := rfl
@[simp] theorem State.takeFrame_record (s : State) :
    s.takeFrame.r.record = (s.nets.settle s.params.pctRound s.ports).record := rfl
@[simp] theorem State.takeFrame_nets (s : State) : s.takeFrame.nets = s.nets.settle s.params.pctRound s.ports := rfl
@[simp] theorem State.takeFrame_ports (s : State) : s.takeFrame.ports = s.ports := rfl
@[simp] theorem State.takeFrame_stimulus (s : State) : s.takeFrame.stimulus = s.stimulus := rfl

/-! ### `present`: only the outside world's fields change -/

@[simp] theorem State.present_params (s : State) : s.present.params = s.params := by
  unfold State.present; split <;> rfl
@[simp] theorem State.present_r (s : State) : s.present.r = s.r := by
  unfold State.present; split <;> rfl
@[simp] theorem State.present_nets (s : State) : s.present.nets = s.nets := by
  unfold State.present; split <;> rfl

theorem State.present_nil {s : State} (h : s.stimulus = []) : s.present = s := by
  unfold State.present; rw [h]

theorem State.present_cons {s : State} {l : StimLine} {rest : List StimLine} (h : s.stimulus = l :: rest) :
    s.present = { s with ports := s.ports.apply l, stimulus := rest } := by
  unfold State.present; rw [h]

/-! ### The consumer's reads -/

@[simp] theorem Kind.code_disarmed : Kind.disarmed.code = 0 := rfl
@[simp] theorem Kind.code_command : Kind.command.code = 1 := rfl
@[simp] theorem Kind.code_throttle : Kind.throttle.code = 2 := rfl
@[simp] theorem Kind.code_lenerr : Kind.lenerr.code = 3 := rfl

/-- A port read while `out_valid == 1` answers the value on the port (R24, R26). -/
theorem readOutput_of_valid {s : State} (h : s.r.valid = true) (port : OutPort) :
    readOutput port s = .next (s.r.record.onPort true port) := by
  unfold readOutput
  rw [if_pos (.inr h), h]

/-- While `out_valid == 0` every port but `out_valid` faults (R241). -/
theorem readOutput_of_not_valid {s : State} (h : s.r.valid = false) {port : OutPort} (hp : port ≠ .outValid) :
    readOutput port s = .fault .payloadReadWhileNotValid := by
  unfold readOutput
  rw [if_neg (by simp [hp, h])]

end Sys2Proof.Machine
end

