-- ==== Sys2Proof/Laws/Step.lean ====
section
/-! SUPPORT. Laws/Step.lean: what one operation and one edge can do, said once. Later proofs cite these and do not unfold
`exec` or `step`. -/

namespace Sys2Proof.Machine

/-- What an operation leaves in the register and the parameters, whichever it is. -/
theorem exec_cases {i : Instr} {s t : State} (h : exec i s = .next t) :
    (isTransaction i = false ∧ ∃ n, t = s.setNets n) ∨
    (∃ a b c, i = .reset a b c ∧ t = s.setValid false) ∨
    (i = .retire ∧ t = s.setValid false) ∨
    (((∃ b, i = .idle b) ∨ i = .hold ∨ i = .stall) ∧ t = s) ∨
    (((∃ b, i = .accept b) ∨ i = .acceptRetire) ∧ t = s.takeFrame) := by
  cases i <;> cases h <;>
    first
    | exact .inl ⟨rfl, _, rfl⟩
    | exact .inr (.inl ⟨_, _, _, rfl, rfl⟩)
    | exact .inr (.inr (.inl ⟨rfl, rfl⟩))
    | exact .inr (.inr (.inr (.inl ⟨by simp, rfl⟩)))
    | exact .inr (.inr (.inr (.inr ⟨by simp, rfl⟩)))

/-- What the edge selected by the handshake does (R170), before the outside world drives the next levels. -/
def edgeEffect (s : State) : State :=
  if s.ports.rst then s.setValid false
  else if s.accepts then s.takeFrame
  else if s.retires then s.setValid false
  else s

/-- The bits of the handshake vector (R86). -/
theorem State.hs_bits (s : State) :
    s.hs.getLsbD 3 = s.ports.rst ∧ s.hs.getLsbD 2 = s.ports.inValid ∧ s.hs.getLsbD 1 = s.r.valid ∧
    s.hs.getLsbD 0 = s.ports.outReady := by
  unfold State.hs
  cases s.ports.rst <;> cases s.ports.inValid <;> cases s.r.valid <;> cases s.ports.outReady <;> decide

/-- The operation selected, by the four levels (R86). -/
theorem State.selected_eq (s : State) : s.selected =
    match s.ports.rst, s.ports.inValid, s.r.valid, s.ports.outReady with
    | true, a, b, c => .reset a b c
    | false, false, false, c => .idle c
    | false, false, true, false => .hold
    | false, false, true, true => .retire
    | false, true, false, c => .accept c
    | false, true, true, false => .stall
    | false, true, true, true => .acceptRetire := by
  obtain ⟨h3, h2, h1, h0⟩ := s.hs_bits
  unfold State.selected decodeHs
  generalize s.hs.getLsbD 3 = rst, s.hs.getLsbD 2 = inValid, s.hs.getLsbD 1 = valid, s.hs.getLsbD 0 = outReady
    at h3 h2 h1 h0 ⊢
  subst h3 h2 h1 h0
  rfl

/-- One edge, whole: it never stops (R170, R200). -/
theorem step_eq (s : State) : step s = .next (edgeEffect s).present := by
  have hs : exec s.selected s = .next (edgeEffect s) := by
    rw [s.selected_eq]
    unfold edgeEffect State.accepts State.retires State.inReady State.outValid
    cases s.ports.rst <;> cases s.ports.inValid <;> cases hv : s.r.valid <;> cases s.ports.outReady <;>
      simp [exec, execReset, execIdle, execHold, execRetire, execAccept, execStall, execAcceptRetire]
  unfold step
  rw [hs]

theorem State.edge_eq (s : State) : s.edge = (edgeEffect s).present := by
  unfold State.edge; rw [step_eq]

@[simp] theorem edgeEffect_params (s : State) : (edgeEffect s).params = s.params := by
  unfold edgeEffect; split_ifs <;> rfl

@[simp] theorem State.edge_params (s : State) : s.edge.params = s.params := by
  rw [s.edge_eq]; simp

@[simp] theorem State.edge_r (s : State) : s.edge.r = (edgeEffect s).r := by
  rw [s.edge_eq]; simp

theorem State.after_params (n : Nat) (s : State) : (s.after n).params = s.params := by
  induction n generalizing s with
  | zero => rfl
  | succ n ih => rw [State.after, ih, s.edge_params]

theorem State.after_succ (n : Nat) (s : State) : s.after (n + 1) = (s.after n).edge := by
  induction n generalizing s with
  | zero => rfl
  | succ n ih => rw [State.after, ih]; rfl

end Sys2Proof.Machine
end

