-- ==== Sys2Proof/Tests/Slice0.lean ====
section
/-! SUPPORT. Tests/Slice0.lean: the model's own tests. Expected results are the vectors of spec/95_test_vectors.md and the
worked examples of the rules, named at each test; and for every statement with hypotheses a witness that meets them. -/

namespace Sys2Proof.Tests

open Sys2Proof.Machine Sys2Proof.Config

/-! ### Well-formedness: an ill-formed term for each check -/

theorem test_wf_command_zero : (Instr.decCommand 0 false 0).wellFormed = false := by decide
theorem test_wf_command_48 : (Instr.decCommand 48 false 0).wellFormed = false := by decide
theorem test_wf_command_ends :
    (Instr.decCommand 1 false 0).wellFormed = true ∧ (Instr.decCommand 47 true 0).wellFormed = true := by decide
theorem test_wf_throttle_47 : (Instr.decThrottle 47 false 0).wellFormed = false := by decide
theorem test_wf_throttle_ends :
    (Instr.decThrottle 48 false 0).wellFormed = true ∧ (Instr.decThrottle 2047 true 0).wellFormed = true := by decide
theorem test_wf_lenerr_6 : (Instr.decLenerr 6).wellFormed = false := by decide

/-! ### Decoding: words written out from the patterns of R85, R86 and R72 -/

/-- R85 `00000000000tcccc` with t = 1, cccc = 0001 (vector CL-2). -/
theorem test_decode_disarmed : decodeTableWord 16 0b0000000000010001 = some (.decDisarmed true 1) := by decide
/-- R85 `00000000001tcccc` with t = 0, cccc = 0010 (vector CL-4). -/
theorem test_decode_command_1 : decodeTableWord 16 0b0000000000100010 = some (.decCommand 1 false 2) := by decide
/-- R85 `0000010xxxxtcccc`, xxxx = 1111, t = 1, cccc = 1010 (vector CL-7). -/
theorem test_decode_command_47 : decodeTableWord 16 0b0000010111111010 = some (.decCommand 47 true 10) := by decide
/-- R85 `0000011xxxxtcccc`, xxxx = 0000, t = 0, cccc = 0110 (vector CL-8). -/
theorem test_decode_throttle_48 : decodeTableWord 16 0b0000011000000110 = some (.decThrottle 48 false 6) := by decide
/-- R85 `1xxxxxxxxxxtcccc`, every bit 1 (vector CL-9). -/
theorem test_decode_throttle_2047 : decodeTableWord 16 0xFFFF = some (.decThrottle 2047 true 15) := by decide
/-- R72: 5 and 7 are errors, 6 is none. -/
theorem test_decode_len : decode (.fLen 5) = .ok (.decLenerr 5) ∧ decode (.fLen 7) = .ok (.decLenerr 7) ∧
    decode (.fLen 6) = .error .lengthSelectsDecodePath := by decide
/-- R86's rows, one vector each. -/
theorem test_decode_hs : decodeTableWord 8 0b1110 = some (.reset true true false) ∧
    decodeTableWord 8 0b0001 = some (.idle true) ∧ decodeTableWord 8 0b0010 = some .hold ∧
    decodeTableWord 8 0b0011 = some .retire ∧ decodeTableWord 8 0b0100 = some (.accept false) ∧
    decodeTableWord 8 0b0110 = some .stall ∧ decodeTableWord 8 0b0111 = some .acceptRetire := by decide
/-- F_CAP and F_WORD pass through their stages, the classifying operation before SCALE. -/
theorem test_program : program (.fCap 0x201240209248) = [.assemble, .polarity, .align, .decimate] ∧
    program (.fWord 0x82C6) = [.extractCrc, .extractDf, .extractTlm, .extractData, .crc4, .crcVerdict, .classify,
      .decThrottle 1046 false 6, .scale] := by decide
/-- S6: `FRAME(0x82C6, 0)` and `FRAME(0x82C6, 1)`. -/
theorem test_frame : frame 0x82C6 false = 0x201240209248 ∧ frame 0x82C6 true = 0xFB7FF6FBFFFE := by decide +kernel
theorem test_no_such_width : decodeTableWord 12 0 = none ∧ decodeTableWord 16 65536 = none := by decide

/-! ### Stages, on the intermediate values (vectors BR-1, CRC-1, TH-5) -/

/-- A state whose intermediate values are given. -/
def withNets (n : Nets) : State := State.reset.setNets n

/-- What an operation leaves, where it answers a next state. -/
def run (i : Instr) (s : State) : Option State :=
  match exec i s with
  | .next t => some t
  | .fault _ => none
  | .refused _ => none

/-- A frame offered to a register that is empty, with the timestamps of R171's example. -/
def offer (len : Length) (data : Capture) : State :=
  { State.reset with ports :=
    { rst := false, inValid := true, inLen := len, inData := data, inTsStart := 10, inTsEnd := 20, outReady := false } }

/-- R holds record A of spec/95_test_vectors.md section 2.6, and frame B is offered or not. -/
def holdingA (rst inValid outReady : Bool) : State :=
  { State.reset with
    r := { valid := true, record := decodeFrame .trunc 6 0x201240209248 10 20 }
    ports := { rst := rst, inValid := inValid, inLen := 6, inData := 0, inTsStart := 20, inTsEnd := 30
               outReady := outReady } }

/-- R100's example: buffer byte 0 is the most significant. -/
theorem test_assemble : (run .assemble (offer 6 0x201240209248)).map (·.nets.raw48) = some 0x201240209248 := by decide
theorem test_buffer_bytes : (List.range 6).map (bufferByte 0x201240209248) = [0x20, 0x12, 0x40, 0x20, 0x92, 0x48] := by
  decide
/-- R101's example. -/
theorem test_polarity : (run .polarity (withNets { Nets.zero with raw48 := 0x201240209248 })).map (·.nets.corrected) =
    some 0xDFEDBFDF6DB7 := by decide
/-- R102's example: bit 48 is kept. -/
theorem test_align : (run .align (withNets { Nets.zero with corrected := 0xDFEDBFDF6DB7 })).map (·.nets.v) =
    some 0x1BFDB7FBEDB6F := by decide
/-- R103's example. -/
theorem test_decimate : (run .decimate (withNets { Nets.zero with v := 0x1BFDB7FBEDB6F })).map (·.nets.word) =
    some 0x82C6 := by decide
/-- BR-1: four iterations in, the word is 0x0008 and the working value 0x1BFDB7FBED; at the end 0x1 remains. -/
theorem test_decimate_trace : decimateLoop 4 0x1BFDB7FBEDB6F 0 = (0x1BFDB7FBED, 0x0008) ∧
    (decimateLoop 16 0x1BFDB7FBEDB6F 0).1 = 1 := by decide
/-- R120's example. -/
theorem test_extract_crc : (run .extractCrc (withNets { Nets.zero with word := 0x82C6 })).map (·.nets.crc) = some 6 := by
  decide
/-- R121's example. -/
theorem test_extract_df : (run .extractDf (withNets { Nets.zero with word := 0x82C6 })).map (·.nets.dataField) =
    some 0x82C := by decide
/-- R122's example, and CRC-8's telemetry bit. -/
theorem test_extract_tlm :
    (run .extractTlm (withNets { Nets.zero with dataField := 0x82C })).map (·.nets.telemetryRequest) = some false ∧
    (run .extractTlm (withNets { Nets.zero with dataField := 0x001 })).map (·.nets.telemetryRequest) = some true := by
  decide
/-- R123's example. -/
theorem test_extract_data : (run .extractData (withNets { Nets.zero with dataField := 0x82C })).map (·.nets.data) =
    some 1046 := by decide
/-- R124's example. -/
theorem test_crc4 : (run .crc4 (withNets { Nets.zero with dataField := 0x82C })).map (·.nets.crcCheck) = some 6 := by decide
/-- CRC-5: the telemetry bit is in the fold. -/
theorem test_crc4_tlm : (run .crc4 (withNets { Nets.zero with dataField := 0xFFE })).map (·.nets.crcCheck) = some 14 := by
  decide
/-- CRC-1 and CRC-2. -/
theorem test_verdict :
    (run .crcVerdict (withNets { Nets.zero with crc := 6, crcCheck := 6 })).map (·.nets.crcOk) = some true ∧
    (run .crcVerdict (withNets { Nets.zero with crc := 0, crcCheck := 6 })).map (·.nets.crcOk) = some false := by decide
/-- P-PART: data 0, 1, 47, 48 and 2047. -/
theorem test_classify : ([0, 1, 47, 48, 2047] : List Data).map classifyData =
    [.disarmed, .command, .command, .throttle, .throttle] := by decide
theorem test_classify_exec : (run .classify (withNets { Nets.zero with data := 47 })).map (·.nets.kind) =
    some .command := by decide
/-- R141's example: word 0x0011. -/
theorem test_dec_disarmed :
    (run (.decDisarmed true 1) (withNets { Nets.zero with crcCheck := 1, crcOk := true, code := 5, value := 7 })).map
      (fun t => (t.nets.kind, t.nets.code, t.nets.value, t.nets.record.tlm, t.nets.record.crcRx, t.nets.record.crcOk)) =
    some (.disarmed, 0, 0, true, 1, true) := by decide
/-- R142's example: code 47. -/
theorem test_dec_command : (run (.decCommand 47 true 10) (withNets { Nets.zero with value := 7 })).map
    (fun t => (t.nets.kind, t.nets.code, t.nets.value, t.nets.record.crcRx)) = some (.command, 47, 0, 10) := by decide
/-- R143's example: data 1046. -/
theorem test_dec_throttle : (run (.decThrottle 1046 false 6) State.reset).map
    (fun t => (t.nets.kind, t.nets.value, t.nets.pct, t.nets.pctRem)) = some (.throttle, 998, 4992, 992) := by decide
/-- TH-5 and TH-7 under both roundings. -/
theorem test_scale_trunc : (run .scale (withNets { Nets.zero with value := 200 })).map
    (fun t => (t.nets.q, t.nets.pct, t.nets.pctRem)) = some (1000, 1000, 1000) := by decide
theorem test_scale_nearest : pctOf .nearest 200 = 1001 ∧ pctOf .nearest 1998 = 9995 ∧ pctOf .nearest 999 = 4997 ∧
    pctOf .trunc 1998 = 9994 ∧ pctRemOf 1998 = 1994 := by decide
theorem test_form_record : (run .formRecord ((offer 6 0).setNets { Nets.zero with word := 0x82C6, crc := 6 })).map
    (fun t => (t.nets.record.word, t.nets.record.crcRx, t.nets.record.tsStart, t.nets.record.tsEnd, t.r.record.word)) =
    some (0x82C6, 6, 10, 20, 0) := by decide
/-- R201's example, on the record being formed. -/
theorem test_dec_lenerr : (run (.decLenerr 5) (offer 5 0x201240209248)).map
    (fun t => (t.nets.record.kind, t.nets.record.word, t.nets.record.tsStart, t.nets.word)) =
    some (.lenerr, 0, 10, 0) := by decide

/-! ### Edges (section 2.6 of spec/95_test_vectors.md: HS-0 to HS-15) -/

/-- R171's example, whole: CRC-1's record. -/
theorem test_accept : (run (.accept false) (offer 6 0x201240209248)).map (·.r) = some
    { valid := true, record :=
      { kind := .throttle, tlm := false, crcRx := 6, crcCalc := 6, crcOk := true, code := 0, value := 998, pct := 4992
        pctRem := 992, word := 0x82C6, tsStart := 10, tsEnd := 20 } } := by decide +kernel
/-- LE-2: nothing of the bytes reaches the record. -/
theorem test_accept_lenerr : ((offer 5 0x201240209248).edge.r.record.kind, (offer 5 0x201240209248).edge.r.record.word) =
    (.lenerr, 0) := by decide +kernel
/-- BR-2 and BR-18: no majority vote. -/
theorem test_no_vote : (offer 6 0xFB7FF6FBFFFE).edge.r.record.word = 0x82C6 ∧
    (offer 6 0xDB6DB6DB6DB6).edge.r.record.word = 0xFFFF := by decide +kernel
/-- CL-7: Command 47 with telemetry. -/
theorem test_command_47 : ((offer 6 0x208000041249).edge.r.record.kind, (offer 6 0x208000041249).edge.r.record.code,
    (offer 6 0x208000041249).edge.r.record.tlm, (offer 6 0x208000041249).edge.r.record.crcCalc) =
    (.command, 47, true, 10) := by decide +kernel
/-- CRC-13: one sample error turns a throttle into a command, and only CRC_OK shows it. -/
theorem test_crc_13 : ((offer 6 0x201240209249).edge.r.record.code, (offer 6 0x201240209249).edge.r.record.crcCalc,
    (offer 6 0x201240209249).edge.r.record.crcOk) = (22, 14, false) := by decide +kernel
/-- HS-7 and R172's example: A is taken and B's record is written. -/
theorem test_accept_retire : (holdingA false true true).selected = .acceptRetire ∧
    (holdingA false true true).retiredNow.map (·.value) = [998] ∧
    (holdingA false true true).edge.r.record.value = 1999 ∧ (holdingA false true true).edge.r.record.pct = 10000 := by
  decide +kernel
/-- HS-2. -/
theorem test_hold : (holdingA false false false).selected = .hold ∧
    (holdingA false false false).edge.r = (holdingA false false false).r := by decide +kernel
/-- HS-3. -/
theorem test_retire : (holdingA false false true).selected = .retire ∧ (holdingA false false true).edge.r.valid = false ∧
    (holdingA false false true).edge.r.record.value = 998 := by decide +kernel
/-- HS-6: B is not taken, `in_ready` is 0. -/
theorem test_stall : (holdingA false true false).selected = .stall ∧ (holdingA false true false).inReady = false ∧
    (holdingA false true false).edge.r = (holdingA false true false).r := by decide +kernel
/-- HS-15: reset dominates, and A is discarded. -/
theorem test_reset : (holdingA true true true).selected = .reset true true true ∧
    (holdingA true true true).inReady = false ∧ (holdingA true true true).retiredNow = [] ∧
    (holdingA true true true).edge.r.valid = false := by decide +kernel
/-- HS-1: the machine right after reset, with nothing placed, is idle. -/
theorem test_idle : State.reset.selected = .idle false ∧ State.reset.edge = State.reset := by decide +kernel
/-- R89: a field left out keeps its value from the line before. -/
theorem test_stimulus_line : ((offer 6 0x201240209248).ports.apply
    { rst := none, inValid := some false, len := none, data := none, ts := some (3, 4), outReady := none }) =
    { rst := false, inValid := false, inLen := 6, inData := 0x201240209248, inTsStart := 3, inTsEnd := 4
      outReady := false } := by decide
/-- U1: a payload port may not be read while `out_valid == 0`, and KIND's code is read while it is 1. -/
theorem test_read : readOutput .outKind State.reset = .fault .payloadReadWhileNotValid ∧
    readOutput .outValid State.reset = .next 0 ∧ readOutput .outKind (holdingA false false false) = .next 2 :=
  ⟨rfl, rfl, rfl⟩
/-- A table word placed after reset runs at the very next edge. -/
theorem test_fetch_word : (State.reset.withFetchWord 16 0x05FA).edge.r.record.code = 47 ∧
    (State.reset.withFetchWord 8 0b0011).selected = .retire ∧
    (State.reset.withFetchWord 48 0).edge.r.record.word = 0xFFFF := by decide +kernel

/-! ### Witnesses: concrete states and operands that meet a statement's hypotheses, each clause at its ends -/

theorem witness_LengthThenDataSelectsDecodeOperation : (5 : Length) ≠ 6 ∧ (0x001F : Word).toNat / 32 = 0 ∧
    1 ≤ (0x0020 : Word).toNat / 32 ∧ (0x05FF : Word).toNat / 32 ≤ 47 ∧ 48 ≤ (0x0600 : Word).toNat / 32 := by decide
theorem witness_EncodedOperationDecodesToItself :
    (Instr.decCommand 47 true 15).wellFormed = true ∧ (Instr.decCommand 47 true 15).selectedByBits = true ∧
    Instr.scale.wellFormed = true ∧ Instr.scale.selectedByBits = false := by decide
theorem witness_DecodedOperationEncodesBack : decode (.fWord 0xFFFF) = .ok (.decThrottle 2047 true 15) := by decide
theorem witness_CanonicalCaptureBits : 47 < 48 ∧ 47 % 3 ≠ 0 ∧ 45 % 3 = 0 := by decide
theorem witness_AssembleTakesInDataUnswapped : 5 < 6 ∧ 7 < 8 ∧
    (bufferByte 0x800000000001 0).getLsbD 7 = true ∧ (bufferByte 0x800000000001 5).getLsbD 0 = true := by decide
theorem witness_AlignPlacesStartBitBelowSamples : (1 : Nat) ≤ 48 ∧ (alignCapture 0x800000000000).getLsbD 48 = true := by
  decide
theorem witness_DecimateSelectsTapOfEachWindow : 15 ≤ 15 ∧ (decimateWord (1 <<< 46)).getLsbD 0 = true := by decide
theorem witness_AcceptedWordIsComplementedTaps : (offer 6 0x201240209248).ports.inLen = 6 ∧ 15 ≤ 15 := by decide
theorem witness_CaptureRoundTripRecoversWord : (offer 6 0xFB7FF6FBFFFE).ports.inLen = 6 ∧
    ∀ i, i ≤ 15 → (offer 6 0xFB7FF6FBFFFE).ports.inData.getLsbD (3 * i) = !(0x82C6 : Word).getLsbD (15 - i) := by
  decide +kernel
theorem witness_NonTapSamplesNeverReachTheRecord :
    (offer 6 0x201240209248).ports.inLen = 6 ∧ (offer 6 0xFB7FF6FBFFFE).ports.inLen = 6 ∧
    (offer 6 0x201240209248).params.pctRound = (offer 6 0xFB7FF6FBFFFE).params.pctRound ∧
    (offer 6 0x201240209248).ports.inTsStart = (offer 6 0xFB7FF6FBFFFE).ports.inTsStart ∧
    (offer 6 0x201240209248).ports.inTsEnd = (offer 6 0xFB7FF6FBFFFE).ports.inTsEnd ∧
    ∀ i, i ≤ 15 → (offer 6 0x201240209248).ports.inData.getLsbD (3 * i) =
      (offer 6 0xFB7FF6FBFFFE).ports.inData.getLsbD (3 * i) := by decide +kernel
theorem witness_ChecksumFoldsThreeNibbles : 3 < 4 ∧ (crcFold 0x800).getLsbD 3 = true := by decide
theorem witness_FailedChecksumNeverChangesTheClass :
    (offer 6 0x201240209248).ports.inLen = 6 ∧ (offer 6 0x249240209248).ports.inLen = 6 ∧
    (offer 6 0x201240209248).params.pctRound = (offer 6 0x249240209248).params.pctRound ∧
    (∀ i, i ≤ 11 → (offer 6 0x201240209248).ports.inData.getLsbD (3 * i) =
      (offer 6 0x249240209248).ports.inData.getLsbD (3 * i)) ∧
    (offer 6 0x201240209248).edge.r.record.crcOk ≠ (offer 6 0x249240209248).edge.r.record.crcOk := by decide +kernel
theorem witness_SingleBitErrorIsDetected : wordPasses 0x82C6 = true ∧ 15 < 16 ∧ 4 ≤ 15 ∧ 3 < 4 ∧ 11 < 15 ∧
    11 % 4 = 15 % 4 := by decide
theorem witness_ClassifyReadsDataAlone : (Nets.zero.data).toNat = 0 ∧ 1 ≤ (1 : Data).toNat ∧ (47 : Data).toNat ≤ 47 ∧
    48 ≤ (48 : Data).toNat ∧ 48 ≤ (2047 : Data).toNat := by decide
theorem witness_CommandOutcome : 1 ≤ (1 : Data).toNat ∧ (1 : Data).toNat ≤ 47 ∧ 1 ≤ (47 : Data).toNat ∧
    (47 : Data).toNat ≤ 47 := by decide
theorem witness_ThrottleOutcome : 48 ≤ (48 : Data).toNat ∧ 48 ≤ (2047 : Data).toNat := by decide
theorem witness_ScaleIsOneExactDivision : State.reset.params.pctRound = .trunc ∧
    ({ State.reset with params := { tsW := 64, pctRound := .nearest } } : State).params.pctRound = .nearest := by decide
theorem witness_PercentExactnessFacts : (0 : Value).toNat ≤ 1999 ∧ (0 : Value).toNat < 1999 ∧ (1999 : Value).toNat ≤ 1999 := by
  decide
theorem witness_RoundingsDifferAt999Values : 1999 < 2000 ∧ 1998 < 1999 ∧ 199 < 200 := by decide
theorem witness_LengthErrorTakesPrecedence : (offer 7 0).ports.inLen ≠ 6 ∧ (offer 6 0).ports.inLen = 6 := by decide
theorem witness_DisarmedOutcome : (0x0000 : Word).toNat / 32 = 0 ∧ (0x001F : Word).toNat / 32 = 0 := by decide
theorem witness_FormRecordGathersEveryField :
    let r := (offer 6 0xFFFFFFFFFFFF).takeFrame.r.record
    (offer 6 0xFFFFFFFFFFFF).ports.inLen = 6 ∧ r.kind ≠ .command ∧ r.kind ≠ .throttle := by decide +kernel
theorem witness_AcceptRetireWritesTheNewRecord : (holdingA false true true).selected = .acceptRetire := by decide
theorem witness_IdleHoldAndStallWriteNothing : State.reset.selected = .idle false ∧
    (holdingA false false false).selected = .hold ∧ (holdingA false true false).selected = .stall := by decide
theorem witness_RetireClearsValidAlone : (holdingA false false true).selected = .retire := by decide
theorem witness_ResetEdgeClearsValidAlone : (holdingA true false true).ports.rst = true := by decide
theorem witness_AcceptRunsTheFramesOperations : (offer 6 0).ports.inLen = 6 ∧ (offer 0 0).ports.inLen ≠ 6 := by decide
theorem witness_OnlyTransactionsWriteTheRegister :
    exec .assemble (offer 6 1) = .next ((offer 6 1).setNets ((offer 6 1).nets.assemble (offer 6 1).ports)) ∧
    isTransaction .assemble = false ∧
    exec (.accept false) (offer 6 0) = .next (offer 6 0).takeFrame ∧
    (offer 6 0).takeFrame.r.record ≠ (offer 6 0).r.record := ⟨rfl, rfl, rfl, by decide +kernel⟩
theorem witness_StepRunsTheDecodedOperation : decode (.fHs (holdingA false false true).hs) = .ok .retire ∧
    exec .retire (holdingA false false true) = .next ((holdingA false false true).setValid false) := ⟨by decide, rfl⟩
/-- Two states that differ in the values left over alone. -/
theorem witness_RecordDependsOnItsFrameAlone :
    let s := offer 6 0
    let t := s.setNets { Nets.zero with word := 5 }
    s.r = t.r ∧ s.ports = t.ports ∧ s.params.pctRound = t.params.pctRound ∧ s ≠ t := by decide +kernel
/-- Two states that differ in R, in `out_ready` and in the values left over, and accept the same frame. -/
theorem witness_RecordDependsOnItsFrameAlone_accept :
    let t : State := { holdingA false true true with nets := { Nets.zero with word := 5 } }
    let s : State := { State.reset with ports := { t.ports with outReady := false } }
    s.ports.frame = t.ports.frame ∧ s.ports.outReady ≠ t.ports.outReady ∧ s.params.pctRound = t.params.pctRound ∧ s.accepts = true ∧ t.accepts = true ∧ s.r ≠ t.r := by
  decide +kernel
theorem witness_ResetDiscardsWithoutRetiring : (holdingA true true true).ports.rst = true := by decide
theorem witness_ConsumerReadsOnlyAValidRecord : State.reset.r.valid = false ∧ OutPort.outPct ≠ OutPort.outValid ∧
    (holdingA false false false).r.valid = true := by decide
/-- A valid record of each kind. -/
theorem witness_ConsumerReadsOnlyAValidRecord_kinds :
    let d := (offer 6 0xFFFFFFFFFFFF).edge.r
    let c := (offer 6 (frame 0x05FA false)).edge.r
    let h := (offer 6 0).edge.r
    let l := (offer 5 0).edge.r
    (d.valid = true ∧ d.record.kind = .disarmed) ∧ (c.valid = true ∧ c.record.kind = .command) ∧
    (h.valid = true ∧ h.record.kind = .throttle) ∧ (l.valid = true ∧ l.record.kind = .lenerr) := by decide +kernel
/-- Each kind's code at the port (R81), after an accept edge. -/
theorem test_kind_codes : readOutput .outKind (offer 6 0xFFFFFFFFFFFF).edge = .next 0 ∧
    readOutput .outKind (offer 6 (frame 0x05FA false)).edge = .next 1 ∧
    readOutput .outKind (offer 6 0).edge = .next 2 ∧ readOutput .outKind (offer 5 0).edge = .next 3 :=
  ⟨(readOutput_of_valid (by decide +kernel) _).trans (congrArg _ (by decide +kernel)),
    (readOutput_of_valid (by decide +kernel) _).trans (congrArg _ (by decide +kernel)),
    (readOutput_of_valid (by decide +kernel) _).trans (congrArg _ (by decide +kernel)),
    (readOutput_of_valid (by decide +kernel) _).trans (congrArg _ (by decide +kernel))⟩
theorem witness_OfferedWordRunsFirstAfterReset : 65535 < 65536 := by decide
theorem witness_PlacedVectorIsTheOneSelected : 15 < 16 := by decide
theorem witness_ResetStateAcceptsAtOnce : (offer 6 0).ports.rst = false := by decide
theorem witness_OneResetEdgeSuffices : ∀ k, k ≤ 2 → ((holdingA true true true).after k).ports.rst = true := by
  decide +kernel
theorem witness_HeldRecordIsImmutable : (holdingA false true false).r.valid = true ∧
    (∀ k, k < 2 → ((holdingA false true false).after k).ports.rst = false ∧
      ((holdingA false true false).after k).ports.outReady = false) ∧
    step (offer 6 0) = .next (offer 6 0).edge ∧ (offer 6 0).edge.r.record ≠ (offer 6 0).r.record :=
  ⟨by decide, by decide +kernel, by rw [step_eq, State.edge_eq], by decide +kernel⟩
/-- A consumer that becomes ready one edge later. -/
def readyLater : State :=
  { holdingA false true false with stimulus :=
    [{ rst := none, inValid := none, len := none, data := none, ts := none, outReady := some true }] }
theorem witness_StableOfferIsAcceptedAtFirstChance :
    (∀ k, k ≤ 1 → (readyLater.after k).ports.inValid = true ∧ (readyLater.after k).ports.frame = readyLater.ports.frame) ∧
    (∀ k, k < 1 → ¬((readyLater.after k).ports.rst = false ∧
      ((readyLater.after k).r.valid = false ∨ (readyLater.after k).ports.outReady = true))) ∧
    (readyLater.after 1).ports.rst = false ∧ (readyLater.after 1).ports.outReady = true ∧ readyLater.r.valid = true ∧
    ∀ k, k < 1 → (readyLater.after k).ports.rst = false ∧ (readyLater.after k).ports.outReady = false := by
  decide +kernel
theorem witness_RetiredRecordsAreTheAcceptedFramesInOrder : readyLater.noReset 2 ∧
    (readyLater.after 1).ports.rst = false ∧ (readyLater.after 1).acceptedNow = [readyLater.ports.frame] ∧
    (holdingA false false false).acceptedNow = [] ∧ (holdingA false false false).retiredNow = [] :=
  ⟨⟨by decide, by decide +kernel, trivial⟩, by decide +kernel, by decide +kernel, by decide, by decide⟩
/-- A held record that is DECODE of one frame. -/
theorem witness_EveryEdgeKeepsTheInvariant :
    (holdingA false true true).Inv ∧ step (holdingA false true true) = .next (holdingA false true true).edge := by
  refine ⟨⟨⟨?_, ?_, ?_, ?_, ?_⟩, fun _ => ⟨6, 0x201240209248, ?_⟩, ?_, ?_, ?_⟩, by rw [step_eq, State.edge_eq]⟩
  · decide +kernel
  · decide +kernel
  · decide +kernel
  · decide +kernel
  · decide +kernel
  · decide +kernel
  · exact ⟨by decide +kernel, by decide +kernel⟩
  · exact ⟨by decide, by decide⟩
  · intro l h
    cases h

end Sys2Proof.Tests
end

/-! ## The register along an edge (spec/10_state.md): an accept edge writes DECODE of the frame on the ports, that
record is legal, and what an edge leaves in R and in the invariant -/

namespace Sys2Proof.Machine

open Sys2Proof.Config

/-! ### The staged bit recovery computes the word of R152 -/

/-- One iteration of R103's loop, as R152 writes it on numbers. -/
theorem decimate_shift_toNat (v : Working) (w : Word) :
    (if v.getLsbD tap then (w <<< 1) ||| 1 else w <<< 1).toNat =
      ((w.toNat <<< 1) ||| ((v.toNat >>> 1) &&& 1)) &&& 0xFFFF := by
  have hbit : v.toNat >>> 1 &&& 1 = (v.getLsbD tap).toNat := by
    rw [BitVec.getLsbD, Nat.toNat_testBit, Nat.and_one_is_mod, Nat.shiftRight_eq_div_pow]
  have hmask (x : Nat) : x &&& 0xFFFF = x % 2 ^ 16 := Nat.and_two_pow_sub_one_eq_mod x 16
  rw [hbit, hmask, Nat.or_mod_two_pow]
  cases v.getLsbD tap <;> simp [BitVec.toNat_shiftLeft]

theorem decimateLoop_toNat (n : Nat) (v : Working) (w : Word) :
    (decimateLoop n v w).2.toNat = decodeLoop n v.toNat w.toNat := by
  induction n generalizing v w with
  | zero => rfl
  | succ n ih => rw [decimateLoop, decodeLoop, ih, decimate_shift_toNat, BitVec.toNat_ushiftRight]

theorem alignCapture_toNat (c : Capture) : (alignCapture c).toNat = (c.toNat <<< 1) ||| 1 := by
  have hshift : c.toNat <<< 1 % 2 ^ 49 = c.toNat <<< 1 := by
    have := c.isLt
    rw [Nat.shiftLeft_eq]
    omega
  have hwidth : c.toNat % 2 ^ 49 = c.toNat := Nat.mod_eq_of_lt (by have := c.isLt; omega)
  unfold alignCapture
  rw [BitVec.toNat_or, BitVec.toNat_shiftLeft, BitVec.toNat_setWidth, hwidth, hshift]
  rfl

theorem Nets.recover_word_toNat (p : Ports) (n : Nets) : (n.recover p).word.toNat = decodeCapture p.inData.toNat := by
  rw [Nets.recover_word, assembleCapture_eq, decimateWord, decimateLoop_toNat, alignCapture_toNat, correctPolarity,
    BitVec.toNat_xor]
  rfl

theorem decodeLoop_lt (n v : Nat) {w : Nat} (hw : w < 65536) : decodeLoop n v w < 65536 := by
  induction n generalizing v w with
  | zero => exact hw
  | succ n ih => exact ih _ (Nat.lt_of_le_of_lt Nat.and_le_right (by decide))

theorem decodeCapture_lt (data48 : Nat) : decodeCapture data48 < 65536 := decodeLoop_lt 16 _ (by decide)

/-! ### `decodeClass`, case by case (R140 to R143) -/

theorem decodeClass_zero (rounding : PctRound) : decodeClass rounding 0 = (.disarmed, 0, 0, 0, 0) := rfl

theorem decodeClass_command (rounding : PctRound) {data : Nat} (h : data ≠ 0) (h' : data ≤ 47) :
    decodeClass rounding data = (.command, data, 0, 0, 0) := by
  rw [decodeClass, if_neg h, if_pos h']

theorem decodeClass_throttle (rounding : PctRound) {data : Nat} (h : 48 ≤ data) : decodeClass rounding data =
    (.throttle, 0, data - 48, decodePct rounding (data - 48), (data - 48) * 10000 % 1999) := by
  rw [decodeClass, if_neg (by omega), if_neg (by omega)]

/-! ### The record of an accepted frame is DECODE of it (R152) -/

theorem fieldToTlm_toNat (f : DataField) : fieldToTlm f = (f.toNat &&& 1 == 1) := by
  rw [fieldToTlm_eq, BitVec.getLsbD, Nat.testBit_zero, Nat.and_one_is_mod]
  rfl

/-- The verdict on a word, as R152 compares the two checksums. -/
theorem crcVerdict_toNat (a b : Crc) : crcVerdict a b = (a.toNat == b.toNat) := by
  rw [crcVerdict, Bool.eq_iff_iff, beq_iff_eq, beq_iff_eq, BitVec.toNat_inj]

/-- R152's record of a word, its fields given by the machine's value functions. -/
theorem decodeWordRecord_eq (rounding : PctRound) (w : Word) (tsS tsE : Nat) :
    decodeWordRecord rounding w.toNat tsS tsE =
      let c := decodeClass rounding (fieldToData (wordToDataField w)).toNat
      { kind := c.1, tlm := fieldToTlm (wordToDataField w), crcRx := wordToCrc w
        crcCalc := crcFold (wordToDataField w), crcOk := crcVerdict (crcFold (wordToDataField w)) (wordToCrc w)
        code := BitVec.ofNat 6 c.2.1, value := BitVec.ofNat 11 c.2.2.1, pct := BitVec.ofNat 14 c.2.2.2.1
        pctRem := BitVec.ofNat 11 c.2.2.2.2, word := w, tsStart := tsS, tsEnd := tsE } := by
  simp only [decodeWordRecord, fieldToTlm_toNat, crcVerdict_toNat, fieldToData_toNat, ← wordToDataField_toNat,
    ← wordToCrc_toNat, ← crcFold_toNat, BitVec.ofNat_toNat, BitVec.setWidth_eq]

/-- What the classifier and SCALE conclude from a data value is R152's `decodeClass` of it. -/
theorem Nets.conclude_record (rounding : PctRound) (p : Ports) (n : Nets) : (n.conclude rounding p).record =
    let c := decodeClass rounding n.data.toNat
    { kind := c.1, tlm := n.telemetryRequest, crcRx := n.crc, crcCalc := n.crcCheck, crcOk := n.crcOk
      code := BitVec.ofNat 6 c.2.1, value := BitVec.ofNat 11 c.2.2.1, pct := BitVec.ofNat 14 c.2.2.2.1
      pctRem := BitVec.ofNat 11 c.2.2.2.2, word := n.word, tsStart := p.inTsStart, tsEnd := p.inTsEnd } := by
  by_cases h0 : n.data = 0
  · rw [conclude_disarmed _ _ _ h0, h0]
    rfl
  have hne : n.data.toNat ≠ 0 := fun h => h0 (BitVec.eq_of_toNat_eq h)
  by_cases h47 : n.data.toNat ≤ 47
  · rw [conclude_command _ _ _ h0 h47, decodeClass_command rounding hne h47]
    rfl
  · rw [conclude_throttle _ _ _ h0 h47, decodeClass_throttle rounding (by omega),
      ← throttleValue_toNat _ (by omega), ← pctOf_toNat, ← scaleRem_toNat]
    simp only [BitVec.ofNat_toNat, BitVec.setWidth_eq]
    rfl

/-- What the combinational logic settles to holds DECODE of the frame on the ports, whatever it held before. -/
@[simp] theorem Nets.settle_record (rounding : PctRound) (p : Ports) (n : Nets) :
    (n.settle rounding p).record = p.decoded rounding := by
  by_cases h : p.inLen = 6
  · rw [settle_sixBytes rounding n h, conclude_record, demux_recover, Ports.decoded, decodeFrame, h,
      if_neg (by decide), ← Nets.recover_word_toNat p n, decodeWordRecord_eq]
  · have hne : p.inLen.toNat ≠ 6 := fun h' => h (BitVec.eq_of_toNat_eq h')
    rw [settle_lenErr rounding n h, Ports.decoded, decodeFrame, if_pos hne]
    rfl

/-- The accept edge's write (R171, R172). -/
theorem State.takeFrame_r (s : State) :
    s.takeFrame.r = { valid := true, record := s.ports.decoded s.params.pctRound } := by
  rw [← Nets.settle_record _ _ s.nets]
  rfl

/-- DECODE reads of the ports the frame alone. -/
theorem Ports.decoded_eq (rounding : PctRound) (p : Ports) : p.decoded rounding = p.frame.decoded rounding := rfl

/-! ### DECODE returns legal records (R30, R82) -/

theorem decodePct_le (rounding : PctRound) {value : Nat} (h : value ≤ 1999) : decodePct rounding value ≤ 10000 := by
  cases rounding with
  | trunc => simp only [decodePct]; omega
  | nearest => simp only [decodePct]; split <;> omega

theorem decodeWordRecord_legal (rounding : PctRound) {word : Nat} (hw : word < 65536) (tsS tsE : Nat) :
    (decodeWordRecord rounding word tsS tsE).Legal := by
  have hdata : word >>> 4 >>> 1 ≤ 2047 := by
    simp only [Nat.shiftRight_eq_div_pow]
    omega
  rcases Nat.eq_zero_or_pos (word >>> 4 >>> 1) with h0 | hpos
  · have hc := decodeClass_zero rounding
    constructor <;> simp [decodeWordRecord, h0, hc]
  by_cases h47 : word >>> 4 >>> 1 ≤ 47
  · have hc := decodeClass_command rounding (Nat.ne_of_gt hpos) h47
    constructor
    case codeRange =>
      intro
      simp only [decodeWordRecord, hc, BitVec.toNat_ofNat]
      omega
    all_goals simp [decodeWordRecord, hc]
  · have hc := decodeClass_throttle rounding (data := word >>> 4 >>> 1) (by omega)
    have hpct := decodePct_le rounding (value := word >>> 4 >>> 1 - 48) (by omega)
    have hrem := Nat.mod_lt ((word >>> 4 >>> 1 - 48) * 10000) (show 1999 > 0 by decide)
    generalize (word >>> 4 >>> 1 - 48) * 10000 % 1999 = rem at hc hrem
    constructor
    case throttleRange =>
      simp only [decodeWordRecord, hc, BitVec.toNat_ofNat]
      omega
    all_goals simp [decodeWordRecord, hc]

theorem decodeFrame_legal (rounding : PctRound) (len data48 tsS tsE : Nat) :
    (decodeFrame rounding len data48 tsS tsE).Legal := by
  by_cases h : len = 6
  · rw [decodeFrame, if_neg (by omega)]
    exact decodeWordRecord_legal rounding (decodeCapture_lt data48) tsS tsE
  · rw [decodeFrame, if_pos h]
    constructor <;> simp

theorem decodeFrame_timestamps (rounding : PctRound) (len data48 tsS tsE : Nat) :
    (decodeFrame rounding len data48 tsS tsE).tsStart = tsS ∧
    (decodeFrame rounding len data48 tsS tsE).tsEnd = tsE := by
  unfold decodeFrame
  split <;> exact ⟨rfl, rfl⟩

/-! ### What an edge does to R -/

theorem State.inReady_iff (s : State) :
    s.inReady = true ↔ s.ports.rst = false ∧ (s.r.valid = false ∨ s.ports.outReady = true) := by
  simp [State.inReady]

theorem State.accepts_iff (s : State) : s.accepts = true ↔ s.ports.inValid = true ∧ s.inReady = true := by
  simp [State.accepts]

theorem State.retires_iff (s : State) :
    s.retires = true ↔ s.ports.rst = false ∧ s.r.valid = true ∧ s.ports.outReady = true := by
  simp [State.retires, State.outValid, and_assoc]

theorem edgeEffect_of_accepts {s : State} (h : s.accepts = true) : edgeEffect s = s.takeFrame := by
  have hrst : s.ports.rst = false := (s.inReady_iff.mp (s.accepts_iff.mp h).2).1
  simp [edgeEffect, hrst, h]

/-- Only an accept edge writes a field other than VALID (R31). -/
theorem edgeEffect_record_of_not_accepts {s : State} (h : ¬ s.accepts = true) :
    (edgeEffect s).r.record = s.r.record := by
  unfold edgeEffect
  rw [if_neg h]
  split_ifs <;> rfl

/-- A held record that the consumer does not take stays (R174, R176). -/
theorem edgeEffect_of_held {s : State} (hv : s.r.valid = true) (hrst : s.ports.rst = false)
    (hready : s.ports.outReady = false) : edgeEffect s = s := by
  simp [edgeEffect, State.accepts, State.retires, State.inReady, hv, hrst, hready]

/-- The whole effect of an edge on R (R170). -/
theorem edgeEffect_r (s : State) : (edgeEffect s).r =
    if s.ports.rst then { s.r with valid := false }
    else if s.accepts then { valid := true, record := s.ports.decoded s.params.pctRound }
    else if s.retires then { s.r with valid := false }
    else s.r := by
  rw [← s.takeFrame_r]
  unfold edgeEffect
  split_ifs <;> rfl

/-- While the consumer takes nothing and there is no reset, a held register stays (R31). -/
theorem State.after_r_of_held {n : Nat} {s : State} (hv : s.r.valid = true)
    (hheld : ∀ k, k < n → (s.after k).ports.rst = false ∧ (s.after k).ports.outReady = false) :
    (s.after n).r = s.r := by
  induction n with
  | zero => rfl
  | succ n ih =>
    have hr : (s.after n).r = s.r := ih fun k hk => hheld k (by omega)
    obtain ⟨hrst, hready⟩ := hheld n (Nat.lt_succ_self n)
    rw [State.after_succ, State.edge_r, edgeEffect_of_held (hr ▸ hv) hrst hready, hr]

/-- The next state of a step is the edge's effect with the next levels presented. -/
theorem eq_of_step {s t : State} (h : step s = .next t) : t = (edgeEffect s).present := by
  rw [step_eq] at h
  exact (Host.Outcome.next.inj h).symm

/-! ### What an operation leaves unchanged (R20, R30) -/

theorem exec_frame {i : Instr} {s t : State} (h : exec i s = .next t) :
    t.params = s.params ∧ t.ports = s.ports ∧ t.stimulus = s.stimulus := by
  obtain ⟨-, _, rfl⟩ | ⟨_, _, _, -, rfl⟩ | ⟨-, rfl⟩ | ⟨-, rfl⟩ | ⟨-, rfl⟩ := exec_cases h <;> exact ⟨rfl, rfl, rfl⟩

theorem exec_r_of_not_transaction {i : Instr} {s t : State} (h : exec i s = .next t) (hi : isTransaction i = false) :
    t.r = s.r := by
  obtain ⟨-, _, rfl⟩ | ⟨_, _, _, rfl, -⟩ | ⟨rfl, -⟩ | ⟨-, rfl⟩ | ⟨⟨_, rfl⟩ | rfl, -⟩ := exec_cases h
  case inl => rfl
  case inr.inr.inr.inl => rfl
  all_goals cases hi

theorem accept_of_exec_record_ne {i : Instr} {s t : State} (h : exec i s = .next t)
    (hne : t.r.record ≠ s.r.record) : (∃ b, i = .accept b) ∨ i = .acceptRetire := by
  obtain ⟨-, _, rfl⟩ | ⟨_, _, _, -, rfl⟩ | ⟨-, rfl⟩ | ⟨-, rfl⟩ | ⟨hi, -⟩ := exec_cases h
  case inr.inr.inr.inr => exact hi
  all_goals exact absurd rfl hne

/-! ### The invariant -/

theorem State.Inv.setValid_false {s : State} (h : s.Inv) : (s.setValid false).Inv where
  legal := h.legal
  oneFrame hv := nomatch hv
  recordFits := h.recordFits
  portsFit := h.portsFit
  stimulusFits := h.stimulusFits

theorem State.Inv.takeFrame {s : State} (h : s.Inv) : s.takeFrame.Inv := by
  obtain ⟨hs, he⟩ := decodeFrame_timestamps s.params.pctRound s.ports.inLen.toNat s.ports.inData.toNat
    s.ports.inTsStart s.ports.inTsEnd
  refine ⟨?legal, fun _ => ⟨s.ports.inLen, s.ports.inData, ?oneFrame⟩, ?recordFits, h.portsFit, h.stimulusFits⟩ <;>
    rw [s.takeFrame_r]
  case legal => exact decodeFrame_legal _ _ _ _ _
  case oneFrame => simp only [Ports.decoded, hs, he, State.takeFrame_params]
  case recordFits => simpa only [Ports.decoded, hs, he, State.takeFrame_params] using h.portsFit

theorem State.Inv.edgeEffect {s : State} (h : s.Inv) : (Machine.edgeEffect s).Inv := by
  unfold Machine.edgeEffect
  split_ifs
  · exact h.setValid_false
  · exact h.takeFrame
  · exact h.setValid_false
  · exact h

theorem Ports.apply_fits {params : Params} {p : Ports} {l : StimLine} (hp : tsFits params p.inTsStart p.inTsEnd)
    (hl : l.fits params) : tsFits params (p.apply l).inTsStart (p.apply l).inTsEnd := by
  unfold Ports.apply
  cases hts : l.ts with
  | none => exact hp
  | some ts => exact hl ts hts

theorem State.Inv.present {s : State} (h : s.Inv) : s.present.Inv := by
  cases hst : s.stimulus with
  | nil => rwa [State.present_nil hst]
  | cons l rest =>
    have hfits : ∀ l' ∈ l :: rest, l'.fits s.params := hst ▸ h.stimulusFits
    rw [State.present_cons hst]
    exact ⟨h.legal, h.oneFrame, h.recordFits, Ports.apply_fits h.portsFit (hfits l List.mem_cons_self),
      fun l' hl' => hfits l' (List.mem_cons_of_mem l hl')⟩

/-! ### The obligations -/

/-- Settles O52: the edge's effect keeps the invariant, and so does presenting the next levels. -/
theorem everyEdgeKeepsTheInvariant : Obligations.EveryEdgeKeepsTheInvariant := by
  intro s t hinv hstep
  rw [eq_of_step hstep]
  exact hinv.edgeEffect.present

/-- Settles O37, by what one operation can do (`exec_cases`). -/
theorem onlyTransactionsWriteTheRegister : Obligations.OnlyTransactionsWriteTheRegister := by
  intro i s t hexec
  obtain ⟨hparams, hports, hstimulus⟩ := exec_frame hexec
  exact ⟨hparams, hports, hstimulus, exec_r_of_not_transaction hexec, accept_of_exec_record_ne hexec⟩

/-- Settles O42: R after an edge is a function of R, the ports and the rounding (`edgeEffect_r`), and at an accept edge
it is DECODE of the frame (`State.takeFrame_r`). -/
theorem recordDependsOnItsFrameAlone : Obligations.RecordDependsOnItsFrameAlone := by
  constructor
  · intro s t hr hp hround
    refine ⟨_, _, step_eq s, step_eq t, ?_⟩
    have hacc : s.accepts = t.accepts := by rw [State.accepts, State.inReady, hr, hp]; rfl
    have hret : s.retires = t.retires := by rw [State.retires, State.outValid, hr, hp]; rfl
    rw [State.present_r, State.present_r, edgeEffect_r, edgeEffect_r, hr, hp, hacc, hret, hround]
  · intro s t hframe hround hs ht
    refine ⟨_, _, step_eq s, step_eq t, ?_⟩
    rw [State.present_r, State.present_r, edgeEffect_of_accepts hs, edgeEffect_of_accepts ht, s.takeFrame_r,
      t.takeFrame_r, Ports.decoded_eq, Ports.decoded_eq, hframe, hround]

/-- Settles O49: only an accept edge writes the record, and a record the consumer does not take stays, edge by edge. -/
theorem heldRecordIsImmutable : Obligations.HeldRecordIsImmutable := by
  refine ⟨fun s t hstep hne => ?_, fun n s => State.after_r_of_held⟩
  rw [eq_of_step hstep, State.present_r] at hne
  have hacc : s.accepts = true := not_not.mp fun h => hne (edgeEffect_record_of_not_accepts h)
  obtain ⟨hrst, hroom⟩ := s.inReady_iff.mp (s.accepts_iff.mp hacc).2
  refine ⟨hacc, fun hvalid => ?_⟩
  have hready : s.ports.outReady = true := hroom.resolve_left (by simp [hvalid])
  exact ⟨hready, s.retires_iff.mpr ⟨hrst, hvalid, hready⟩⟩

/-- Settles O41, row by row of the operation the four levels select. -/
theorem frameIsTakenExactlyWhenReady : Obligations.FrameIsTakenExactlyWhenReady := by
  refine fun s => ⟨s.inReady_iff, ?_⟩
  rw [s.selected_eq, s.inReady_iff]
  split <;> simp [*]

end Sys2Proof.Machine

/-! ## The encoding (spec/30_encoding.md R72, R73, R84 to R86): the decoder and the encoder are inverse to each other on
the operations selected by bits, and the operation decoded owns the row that matches -/

namespace Sys2Proof

/-! ### The operation of a word, by its data value (R84) -/

theorem decodeWord_disarmed {w : Word} (h : (wordData w).toNat = 0) :
    decodeWord w = .decDisarmed (wordTlm w) (wordCrc w) :=
  if_pos (BitVec.eq_of_toNat_eq h)

theorem decodeWord_command {w : Word} (h : 1 ≤ (wordData w).toNat) (h' : (wordData w).toNat ≤ 47) :
    decodeWord w = .decCommand (wordData w) (wordTlm w) (wordCrc w) := by
  have hne : wordData w ≠ 0 := fun h0 => by simp [h0] at h
  rw [decodeWord, if_neg hne, if_pos h']

theorem decodeWord_throttle {w : Word} (h : 48 ≤ (wordData w).toNat) :
    decodeWord w = .decThrottle (wordData w) (wordTlm w) (wordCrc w) := by
  have hne : wordData w ≠ 0 := fun h0 => by simp [h0] at h
  have h47 : ¬ (wordData w).toNat ≤ 47 := by omega
  rw [decodeWord, if_neg hne, if_neg h47]

/-- The data value as the numeric quotient of the word. -/
theorem wordData_eq_ofNat (w : Word) : wordData w = BitVec.ofNat 11 (w.toNat / 32) := by
  rw [← wordData_toNat, BitVec.ofNat_toNat, BitVec.setWidth_eq]

/-- The checksum is the low nibble of the word. -/
theorem wordCrc_eq_setWidth (w : Word) : wordCrc w = w.setWidth 4 :=
  (BitVec.setWidth_eq_extractLsb' (by decide)).symm

/-! ### The decoder undoes the encoder -/

theorem decodeWord_mkWord_disarmed (tlm : Bool) (crc : Crc) :
    decodeWord (mkWord 0 tlm crc) = .decDisarmed tlm crc := by
  rw [decodeWord_disarmed (by rw [wordData_mkWord]; rfl), wordTlm_mkWord, wordCrc_mkWord]

theorem decodeWord_mkWord_command {data : Data} (h : 1 ≤ data.toNat) (h' : data.toNat ≤ 47) (tlm : Bool) (crc : Crc) :
    decodeWord (mkWord data tlm crc) = .decCommand data tlm crc := by
  rw [← wordData_mkWord data tlm crc] at h h'
  rw [decodeWord_command h h', wordData_mkWord, wordTlm_mkWord, wordCrc_mkWord]

theorem decodeWord_mkWord_throttle {data : Data} (h : 48 ≤ data.toNat) (tlm : Bool) (crc : Crc) :
    decodeWord (mkWord data tlm crc) = .decThrottle data tlm crc := by
  rw [← wordData_mkWord data tlm crc] at h
  rw [decodeWord_throttle h, wordData_mkWord, wordTlm_mkWord, wordCrc_mkWord]

theorem decodeLen_of_ne {len : Length} (h : len ≠ 6) : decodeLen len = .ok (.decLenerr len) := if_neg h

theorem decode_encode {i : Instr} (hwf : i.wellFormed = true) (hsel : i.selectedByBits = true) :
    decode (encode i) = .ok i := by
  cases i with
  | decDisarmed tlm crc => exact congrArg _ (decodeWord_mkWord_disarmed tlm crc)
  | decCommand data tlm crc =>
    simp only [Instr.wellFormed, Bool.and_eq_true, decide_eq_true_eq] at hwf
    exact congrArg _ (decodeWord_mkWord_command hwf.1 hwf.2 tlm crc)
  | decThrottle data tlm crc =>
    exact congrArg _ (decodeWord_mkWord_throttle (of_decide_eq_true hwf) tlm crc)
  | decLenerr len => exact decodeLen_of_ne (bne_iff_ne.mp hwf)
  | reset inValid valid outReady => cases inValid <;> cases valid <;> cases outReady <;> rfl
  | idle outReady | accept outReady => cases outReady <;> rfl
  | hold | retire | stall | acceptRetire => rfl
  | _ => cases hsel

/-- A mask-0 row's operation is a stage of its format; SCALE alone follows the operation a word selects. -/
theorem mem_stages_encode {i : Instr} (hsel : i.selectedByBits = false) :
    i ∈ stagesBefore (encode i) ∨ i ∈ stagesAfter (encode i) := by
  cases i with
  | assemble | polarity | align | decimate | extractCrc | extractDf | extractTlm | extractData | crc4 | crcVerdict
  | classify | formRecord => exact .inl (by simp [encode, stagesBefore])
  | scale => exact .inr (by simp [encode, stagesAfter])
  | _ => cases hsel

/-! ### The encoder undoes the decoder -/

/-- The operation is one that the form selects: it encodes to the form, is in range, and is selected by bits. -/
def EncodesBack (f : Form) (i : Instr) : Prop := encode i = f ∧ i.wellFormed = true ∧ i.selectedByBits = true

theorem encodesBack_decodeWord (w : Word) : EncodesBack (.fWord w) (decodeWord w) := by
  have hfields : Form.fWord (mkWord (wordData w) (wordTlm w) (wordCrc w)) = .fWord w := by rw [mkWord_fields]
  rcases Nat.eq_zero_or_pos (wordData w).toNat with h0 | hpos
  · rw [show wordData w = 0 from BitVec.eq_of_toNat_eq h0] at hfields
    rw [decodeWord_disarmed h0]
    exact ⟨hfields, rfl, rfl⟩
  by_cases h47 : (wordData w).toNat ≤ 47
  · rw [decodeWord_command hpos h47]
    exact ⟨hfields, Bool.and_eq_true_iff.mpr ⟨decide_eq_true hpos, decide_eq_true h47⟩, rfl⟩
  · have h48 : 48 ≤ (wordData w).toNat := by omega
    rw [decodeWord_throttle h48]
    exact ⟨hfields, decide_eq_true h48, rfl⟩

/-- R86's vectors, all sixteen. -/
theorem encodesBack_decodeHs : ∀ hs : Handshake, EncodesBack (.fHs hs) (decodeHs hs) := by
  unfold EncodesBack
  decide

theorem encodesBack_decode {f : Form} {i : Instr} (h : decode f = .ok i) : EncodesBack f i := by
  cases f with
  | fWord w => cases h; exact encodesBack_decodeWord w
  | fHs hs => cases h; exact encodesBack_decodeHs hs
  | fLen len =>
    by_cases h6 : len = 6
    · subst h6; cases h
    · cases (decodeLen_of_ne h6).symm.trans h
      exact ⟨rfl, bne_iff_ne.mpr h6, rfl⟩
  | fCap _ | fRec => cases h

/-! ### The rows of the opcode table (R85, R86) -/

/-- An operation's encoding matches its own row: the family of Laws/PerInstr.lean, over the whole of `Instr`. -/
theorem rowAccepts_encode {i : Instr} : i.wellFormed = true → rowAccepts i (encode i) = true :=
  match i with
  | .decDisarmed tlm crc => Laws.TableRow.decDisarmed tlm crc
  | .decCommand data tlm crc => Laws.TableRow.decCommand data tlm crc
  | .decThrottle data tlm crc => Laws.TableRow.decThrottle data tlm crc
  | .decLenerr len => Laws.TableRow.decLenerr len
  | .reset inValid valid outReady => Laws.TableRow.reset inValid valid outReady
  | .idle outReady => Laws.TableRow.idle outReady
  | .hold => Laws.TableRow.hold
  | .retire => Laws.TableRow.retire
  | .accept outReady => Laws.TableRow.accept outReady
  | .stall => Laws.TableRow.stall
  | .acceptRetire => Laws.TableRow.acceptRetire
  | .assemble => Laws.TableRow.assemble
  | .polarity => Laws.TableRow.polarity
  | .align => Laws.TableRow.align
  | .decimate => Laws.TableRow.decimate
  | .extractCrc => Laws.TableRow.extractCrc
  | .extractDf => Laws.TableRow.extractDf
  | .extractTlm => Laws.TableRow.extractTlm
  | .extractData => Laws.TableRow.extractData
  | .crc4 => Laws.TableRow.crc4
  | .crcVerdict => Laws.TableRow.crcVerdict
  | .classify => Laws.TableRow.classify
  | .scale => Laws.TableRow.scale
  | .formRecord => Laws.TableRow.formRecord

/-- The operation a form decodes to owns a row that the form matches. -/
theorem rowAccepts_of_decode {f : Form} {i : Instr} (h : decode f = .ok i) : rowAccepts i f = true := by
  obtain ⟨rfl, hwf, -⟩ := encodesBack_decode h
  exact rowAccepts_encode hwf

/-- The row that fixes a word's bits from `k` up to the number `c`, at the pair `(k, c)`. -/
def rangeRow : Nat × Nat → WordRow
  | (k, c) => ⟨BitVec.allOnes 16 <<< k, BitVec.ofNat 16 (c * 2 ^ k)⟩

theorem rangeRow_accepts_iff {k c : Nat} (h : (c + 1) * 2 ^ k ≤ 65536) (w : Word) :
    (rangeRow (k, c)).accepts w = true ↔ c * 2 ^ k ≤ w.toNat ∧ w.toNat < (c + 1) * 2 ^ k := by
  rw [Nat.succ_mul] at h ⊢
  have hpos : 0 < 2 ^ k := Nat.two_pow_pos k
  have hw : w.toNat / 2 ^ k * 2 ^ k < 65536 := Nat.lt_of_le_of_lt (Nat.div_mul_le_self _ _) w.isLt
  have hc : c * 2 ^ k < 65536 := by omega
  rw [WordRow.accepts, rangeRow, beq_iff_eq, ← BitVec.shiftLeft_ushiftRight, ← BitVec.toNat_inj,
    BitVec.toNat_shiftLeft, BitVec.toNat_ushiftRight, Nat.shiftRight_eq_div_pow, Nat.shiftLeft_eq,
    Nat.mod_eq_of_lt hw, BitVec.toNat_ofNat, Nat.mod_eq_of_lt hc, Nat.mul_left_inj hpos.ne', Nat.div_eq_iff hpos]
  omega

/-- The rows' ranges of words follow one another from `lo` to `hi`, without gap or overlap. -/
def Adjacent (lo hi : Nat) : List (Nat × Nat) → Prop
  | [] => lo = hi
  | (k, c) :: rest => c * 2 ^ k = lo ∧ (c + 1) * 2 ^ k ≤ hi ∧ Adjacent ((c + 1) * 2 ^ k) hi rest

/-- Of adjacent rows up to the last word, a word below the first range matches none and any other matches one. -/
theorem length_filter_accepts_of_adjacent {lo : Nat} {rows : List (Nat × Nat)} (h : Adjacent lo 65536 rows) (w : Word) :
    ((rows.map rangeRow).filter (·.accepts w)).length = if lo ≤ w.toNat then 1 else 0 := by
  induction rows generalizing lo with
  | nil =>
    have hlo : lo = 65536 := h
    exact (if_neg (hlo ▸ Nat.not_le_of_lt w.isLt)).symm
  | cons row rest ih =>
    obtain ⟨k, c⟩ := row
    obtain ⟨rfl, hle, hrest⟩ := h
    have hacc := rangeRow_accepts_iff hle w
    by_cases hin : c * 2 ^ k ≤ w.toNat ∧ w.toNat < (c + 1) * 2 ^ k
    · rw [List.map_cons, List.filter_cons, if_pos (hacc.mpr hin), List.length_cons, ih hrest, if_pos hin.1,
        if_neg (Nat.not_le_of_lt hin.2)]
    · have hnext : (c + 1) * 2 ^ k ≤ w.toNat ↔ c * 2 ^ k ≤ w.toNat := by
        have hpos : 0 < 2 ^ k := Nat.two_pow_pos k
        rw [Nat.succ_mul] at hin ⊢
        omega
      rw [List.map_cons, List.filter_cons, if_neg (mt hacc.mp hin), ih hrest, if_congr hnext rfl rfl]

/-- R85's thirteen rows: the bit each fixes the word from, and the number it fixes there. -/
def wordRowRanges : List (Nat × Nat) :=
  [(5, 0), (5, 1), (6, 1), (7, 1), (8, 1), (9, 1), (9, 2), (9, 3), (11, 1), (12, 1), (13, 1), (14, 1), (15, 1)]

theorem wordRows_eq : disarmedRows ++ commandRows ++ throttleRows = wordRowRanges.map rangeRow := by decide

theorem wordRowRanges_adjacent : Adjacent 0 65536 wordRowRanges := by simp [wordRowRanges, Adjacent]

theorem wordRowCount_eq_one (w : Word) : wordRowCount w = 1 := by
  rw [wordRowCount, wordRows_eq, length_filter_accepts_of_adjacent wordRowRanges_adjacent, if_pos (Nat.zero_le _)]

end Sys2Proof

namespace Sys2Proof.Machine

/-! ### A placed handshake vector (log entry 10) -/

theorem formOf_handshake {w : Nat} (hw : w < 16) : formOf 8 w = .ok (.fHs (BitVec.ofNat 4 w)) := by
  unfold formOf
  rw [if_neg (by omega), if_neg (by decide), if_neg (by decide), if_neg (by omega), if_pos (.inl rfl)]

theorem decodeTableWord_handshake {w : Nat} (hw : w < 16) :
    decodeTableWord 8 w = some (decodeHs (BitVec.ofNat 4 w)) := by
  unfold decodeTableWord
  rw [formOf_handshake hw]
  rfl

/-- Placing a vector sets the four levels that `hs` is made of. -/
theorem State.withFetchWord_handshake (s : State) {w : Nat} (hw : w < 16) : s.withFetchWord 8 w =
    let hs := BitVec.ofNat 4 w
    { s with
      r := { s.r with valid := hs.getLsbD 1 }
      ports := { s.ports with rst := hs.getLsbD 3, inValid := hs.getLsbD 2, outReady := hs.getLsbD 0 } } := by
  unfold State.withFetchWord
  rw [formOf_handshake hw]

theorem State.hs_withFetchWord (s : State) {w : Nat} (hw : w < 16) : (s.withFetchWord 8 w).hs = BitVec.ofNat 4 w := by
  obtain ⟨h3, h2, h1, h0⟩ := (s.withFetchWord 8 w).hs_bits
  rw [s.withFetchWord_handshake hw] at h3 h2 h1 h0 ⊢
  apply BitVec.eq_of_getLsbD_eq
  intro k hk
  interval_cases k
  · exact h0
  · exact h1
  · exact h2
  · exact h3

/-! ### The obligations -/

/-- Settles O4: the operations selected by bits come back (`decode_encode`), the others are stages
(`mem_stages_encode`). -/
theorem encodedOperationDecodesToItself : Obligations.EncodedOperationDecodesToItself :=
  fun _ hwf => ⟨decode_encode hwf, mem_stages_encode⟩

/-- Settles O2: R85's rows are adjacent ranges of words (`wordRowCount_eq_one`), and the word is its operation's own
encoding. -/
theorem wordPatternsCoverExactlyOnce : Obligations.WordPatternsCoverExactlyOnce :=
  fun w => ⟨wordRowCount_eq_one w, rowAccepts_of_decode rfl⟩

/-- Settles O3, range by range of the data value. -/
theorem lengthThenDataSelectsDecodeOperation : Obligations.LengthThenDataSelectsDecodeOperation := by
  refine ⟨fun _ => decodeLen_of_ne, rfl, fun w => ?_⟩
  rw [← wordData_eq_ofNat, ← wordCrc_eq_setWidth, ← wordData_toNat]
  exact ⟨fun h => congrArg _ (decodeWord_disarmed h), fun h h' => congrArg _ (decodeWord_command h h'),
    fun h => congrArg _ (decodeWord_throttle h)⟩

/-- Settles O5, form by form (`encodesBack_decode`). -/
theorem decodedOperationEncodesBack : Obligations.DecodedOperationEncodesBack :=
  fun _ _ => encodesBack_decode

/-- Settles O1: the rows are counted on the sixteen vectors; the row and the encoding are the decoder's. -/
theorem handshakeVectorSelectsExactlyOne : Obligations.HandshakeVectorSelectsExactlyOne := by
  refine ⟨State.hs_bits, fun hs => ⟨?_, rowAccepts_of_decode rfl, (encodesBack_decodeHs hs).1⟩⟩
  revert hs
  decide

/-- Settles O6, by evaluating the decoder on the six closed values. -/
theorem writtenOutWordsDecode : Obligations.WrittenOutWordsDecode := by
  unfold Obligations.WrittenOutWordsDecode
  decide

/-- Settles O46: the levels placed are the vector's bits, and the operation of an edge is read from them. -/
theorem placedVectorIsTheOneSelected : Obligations.PlacedVectorIsTheOneSelected := by
  intro s w hw
  have hhs : (s.withFetchWord 8 w).hs = BitVec.ofNat 4 w := s.hs_withFetchWord hw
  refine ⟨hhs, ?_⟩
  rw [decodeTableWord_handshake hw, State.selected, hhs]

end Sys2Proof.Machine

/-! ## Bit recovery (spec/40_bit_recovery.md R100 to R108): what each stage leaves bit by bit, the word of a capture as a
function of its 16 tap samples, and the record of an accepted 6-byte frame as a function of that word -/

namespace Sys2Proof.Machine

open Sys2Proof.Config

/-! ### The stages, bit by bit -/

/-- The byte lanes of the input port (R23, R52). -/
theorem bufferByte_bit (d : Capture) {k j : Nat} (hk : k < 6) (hj : j < 8) :
    (bufferByte d k).getLsbD j = d.getLsbD (8 * (5 - k) + j) := by
  have hlane : 40 - 8 * k = 8 * (5 - k) := by omega
  rw [bufferByte, BitVec.getLsbD_extractLsb', hlane, decide_eq_true hj, Bool.true_and]

/-- The mask of R101 is every bit of the capture. -/
theorem correctPolarity_eq_not (c : Capture) : correctPolarity c = ~~~c := BitVec.xor_allOnes

theorem alignCapture_bit_zero (c : Capture) : (alignCapture c).getLsbD 0 = true := by
  rw [alignCapture_bit c 0 (Nat.zero_le _), decide_eq_true rfl, Bool.true_or]

/-- Every sample stands one bit higher in the working value (R102). -/
theorem alignCapture_bit_succ (c : Capture) {k : Nat} (hk : k < 48) :
    (alignCapture c).getLsbD (k + 1) = c.getLsbD k := by
  rw [alignCapture_bit c (k + 1) hk, decide_eq_false (Nat.succ_ne_zero k), Bool.false_or, Nat.add_sub_cancel]

theorem decimateWord_bit (v : Working) {i : Nat} (hi : i ≤ 15) :
    (decimateWord v).getLsbD (15 - i) = v.getLsbD (3 * i + 1) := by
  have hlt : 15 - i < nBits := Nat.lt_succ_of_le (Nat.sub_le _ _)
  have hwindow : nBits - 1 - (15 - i) = i := Nat.sub_sub_self hi
  rw [decimateWord, decimateLoop_bit nBits v 0 (15 - i) hlt (by decide), if_pos hlt, hwindow]

/-! ### The word of a capture -/

/-- The word recovered from a capture: R101 to R103 in order. -/
def recoverWord (d : Capture) : Word := decimateWord (alignCapture (correctPolarity d))

theorem Nets.recover_word_eq (p : Ports) (n : Nets) : (n.recover p).word = recoverWord p.inData := by
  rw [Nets.recover_word, assembleCapture_eq, recoverWord]

/-- R104: tap sample `i` of the capture, complemented, is word bit `15 - i`. -/
theorem recoverWord_bit (d : Capture) {i : Nat} (hi : i ≤ 15) :
    (recoverWord d).getLsbD (15 - i) = !d.getLsbD (3 * i) := by
  rw [recoverWord, decimateWord_bit _ hi, alignCapture_bit_succ _ (by omega), correctPolarity_bit _ _ (by omega)]

/-- The tap samples alone decide the word. -/
theorem recoverWord_eq_of_taps {d : Capture} {w : Word}
    (h : ∀ i, i ≤ 15 → d.getLsbD (3 * i) = !w.getLsbD (15 - i)) : recoverWord d = w := by
  apply BitVec.eq_of_getLsbD_eq
  intro j hj
  have hrev : 15 - (15 - j) = j := by omega
  have htap : (recoverWord d).getLsbD (15 - (15 - j)) = w.getLsbD (15 - (15 - j)) := by
    rw [recoverWord_bit d (Nat.sub_le _ _), h _ (Nat.sub_le _ _), Bool.not_not]
  rwa [hrev] at htap

theorem recoverWord_congr {d e : Capture} (h : ∀ i, i ≤ 15 → d.getLsbD (3 * i) = e.getLsbD (3 * i)) :
    recoverWord d = recoverWord e :=
  recoverWord_eq_of_taps fun i hi => by rw [recoverWord_bit e hi, Bool.not_not, h i hi]

/-! ### The fields of a word, as numbers -/

theorem fieldToData_wordToDataField_toNat (w : Word) : (fieldToData (wordToDataField w)).toNat = w.toNat / 32 := by
  rw [fieldToData_toNat, wordToDataField_toNat, ← Nat.shiftRight_add, Nat.shiftRight_eq_div_pow]

theorem wordToCrc_toNat_mod (w : Word) : (wordToCrc w).toNat = w.toNat % 16 := by
  rw [wordToCrc_toNat]
  exact Nat.and_two_pow_sub_one_eq_mod _ 4

/-! ### An accepted frame of 6 bytes -/

/-- The classifier, SCALE and the record leave what bit recovery and the demultiplexer wrote. -/
theorem Nets.conclude_frame (rounding : PctRound) (p : Ports) (n : Nets) :
    (n.conclude rounding p).corrected = n.corrected ∧ (n.conclude rounding p).v = n.v ∧
    (n.conclude rounding p).data = n.data := by
  have hclass : (n.classify.selectedClass rounding).corrected = n.corrected ∧
      (n.classify.selectedClass rounding).v = n.v ∧ (n.classify.selectedClass rounding).data = n.data := by
    unfold Nets.selectedClass
    split <;> exact ⟨rfl, rfl, rfl⟩
  exact hclass

theorem Nets.settle_sixBytes_nets (rounding : PctRound) (n : Nets) {p : Ports} (h : p.inLen = 6) :
    (n.settle rounding p).corrected = correctPolarity p.inData ∧
    (n.settle rounding p).v = alignCapture (correctPolarity p.inData) ∧
    (n.settle rounding p).data = fieldToData (wordToDataField (recoverWord p.inData)) := by
  obtain ⟨hcorrected, hv, hdata⟩ := Nets.conclude_frame rounding p (n.recover p).demux
  rw [Nets.settle_sixBytes rounding n h, hcorrected, hv, hdata, Nets.demux_recover, Nets.recover_word_eq,
    assembleCapture_eq]
  exact ⟨rfl, rfl, rfl⟩

/-- DECODE of a 6-byte frame reads of the capture its word alone (R152). -/
theorem Ports.decoded_sixBytes (rounding : PctRound) {p : Ports} (h : p.inLen = 6) :
    p.decoded rounding = decodeWordRecord rounding (recoverWord p.inData).toNat p.inTsStart p.inTsEnd := by
  rw [Ports.decoded, decodeFrame, h, if_neg (by decide), ← Nets.recover_word_toNat p Nets.zero, Nets.recover_word_eq]

/-- The register after an accepted 6-byte frame. -/
theorem State.takeFrame_r_sixBytes {s : State} (h : s.ports.inLen = 6) : s.takeFrame.r =
    { valid := true
      record := decodeWordRecord s.params.pctRound (recoverWord s.ports.inData).toNat s.ports.inTsStart
        s.ports.inTsEnd } := by
  rw [s.takeFrame_r, Ports.decoded_sixBytes _ h]

/-- The fields of R152's record that are bits of the word (R73). -/
theorem decodeWordRecord_fields (rounding : PctRound) (w : Word) (tsS tsE : Nat) :
    (decodeWordRecord rounding w.toNat tsS tsE).word = w ∧
    (decodeWordRecord rounding w.toNat tsS tsE).tlm = w.getLsbD 4 ∧
    (decodeWordRecord rounding w.toNat tsS tsE).crcRx.toNat = w.toNat % 16 := by
  rw [decodeWordRecord_eq]
  refine ⟨rfl, ?_, wordToCrc_toNat_mod w⟩
  exact (fieldToTlm_eq _).trans (wordToDataField_bit w 0)

/-! ### The obligations -/

/-- Settles O8: the lanes put back together are `in_data` (`assembleCapture_eq`), and each is `bufferByte_bit`'s. -/
theorem assembleTakesInDataUnswapped : Obligations.AssembleTakesInDataUnswapped := by
  refine ⟨fun s => ?_, fun d k j => bufferByte_bit d⟩
  show Host.Outcome.next (s.setNets (s.nets.assemble s.ports)) = _
  rw [Nets.assemble, assembleCapture_eq]
  rfl

/-- Settles O9: the mask of R101 is every bit (`correctPolarity_eq_not`). -/
theorem polarityComplementsEverySample : Obligations.PolarityComplementsEverySample := by
  intro s
  rw [← correctPolarity_eq_not]
  rfl

/-- Settles O10: the working value is `alignCapture` of the samples. -/
theorem alignPlacesStartBitBelowSamples : Obligations.AlignPlacesStartBitBelowSamples := by
  refine fun s => ⟨alignCapture s.nets.corrected, rfl, alignCapture_bit_zero _, fun k hk hk' => ?_⟩
  obtain ⟨k, rfl⟩ := Nat.exists_eq_add_of_le' hk
  exact alignCapture_bit_succ _ hk'

/-- Settles O11: the word is `decimateWord` of the working value. -/
theorem decimateSelectsTapOfEachWindow : Obligations.DecimateSelectsTapOfEachWindow :=
  fun s => ⟨decimateWord s.nets.v, rfl, fun _ => decimateWord_bit s.nets.v⟩

/-- Settles O12: the word is `recoverWord` of the capture, and the two values before it are its stages'. -/
theorem acceptedWordIsComplementedTaps : Obligations.AcceptedWordIsComplementedTaps := by
  refine fun s b hlen => ⟨s.takeFrame, rfl, fun i hi => ?_⟩
  obtain ⟨hcorrected, hv, -⟩ := Nets.settle_sixBytes_nets s.params.pctRound s.nets hlen
  have hsample : (correctPolarity s.ports.inData).getLsbD (3 * i) = !s.ports.inData.getLsbD (3 * i) :=
    correctPolarity_bit _ _ (by omega)
  refine ⟨?word, ?v, ?corrected⟩
  case word => rw [State.takeFrame_r_sixBytes hlen, (decodeWordRecord_fields _ _ _ _).1, recoverWord_bit _ hi]
  case v => rw [State.takeFrame_nets, hv, alignCapture_bit_succ _ (by omega), hsample]
  case corrected => rw [State.takeFrame_nets, hcorrected, hsample]

/-- Settles O13: the taps give the word back (`recoverWord_eq_of_taps`), and the rest are fields of the word. -/
theorem captureRoundTripRecoversWord : Obligations.CaptureRoundTripRecoversWord := by
  intro s w b hlen htaps
  have hword : recoverWord s.ports.inData = w := recoverWord_eq_of_taps htaps
  obtain ⟨-, -, hdata⟩ := Nets.settle_sixBytes_nets s.params.pctRound s.nets hlen
  obtain ⟨hrecWord, htlm, hcrc⟩ := decodeWordRecord_fields s.params.pctRound w s.ports.inTsStart s.ports.inTsEnd
  refine ⟨s.takeFrame, rfl, ?_⟩
  rw [State.takeFrame_r_sixBytes hlen, State.takeFrame_nets, hdata, hword]
  exact ⟨hrecWord, fieldToData_wordToDataField_toNat w, htlm, hcrc⟩

/-- Settles O14: equal taps give equal words (`recoverWord_congr`), and the register is a function of the word, the
timestamps and the rounding. -/
theorem nonTapSamplesNeverReachTheRecord : Obligations.NonTapSamplesNeverReachTheRecord := by
  intro s t b c hs ht hround hstart hend htaps
  refine ⟨s.takeFrame, t.takeFrame, rfl, rfl, ?_⟩
  rw [State.takeFrame_r_sixBytes hs, State.takeFrame_r_sixBytes ht, recoverWord_congr htaps, hround, hstart, hend]

end Sys2Proof.Machine

/-! ## Demultiplexer and CRC-4 checker (spec/41_demux_crc.md R120 to R128): the extractions as numbers, the checksum as
a function of the field alone, and what an inverted bit does to the two checksums -/

namespace Sys2Proof.Machine

/-! ### The extractions, as numbers -/

theorem wordToCrc_eq_ofNat (w : Word) : wordToCrc w = BitVec.ofNat 4 (w.toNat % 16) := by
  rw [← wordToCrc_toNat_mod, BitVec.ofNat_toNat, BitVec.setWidth_eq]

theorem wordToDataField_eq_ofNat (w : Word) : wordToDataField w = BitVec.ofNat 12 (w.toNat / 16) := by
  have hdiv : w.toNat >>> 4 = w.toNat / 16 := Nat.shiftRight_eq_div_pow _ 4
  rw [← hdiv, ← wordToDataField_toNat, BitVec.ofNat_toNat, BitVec.setWidth_eq]

theorem fieldToTlm_eq_decide (f : DataField) : fieldToTlm f = decide (f.toNat % 2 = 1) := by
  rw [fieldToTlm_eq, BitVec.getLsbD, Nat.testBit_zero]

theorem fieldToData_eq_ofNat (f : DataField) : fieldToData f = BitVec.ofNat 11 (f.toNat / 2) := by
  have hdiv : f.toNat >>> 1 = f.toNat / 2 := Nat.shiftRight_eq_div_pow _ 1
  rw [← hdiv, ← fieldToData_toNat, BitVec.ofNat_toNat, BitVec.setWidth_eq]

/-! ### The verdict -/

theorem crcVerdict_iff (a b : Crc) : crcVerdict a b = true ↔ a = b := beq_iff_eq

theorem wordPasses_iff (w : Word) : wordPasses w = true ↔ wordCheck w = wordToCrc w := crcVerdict_iff _ _

/-! ### The field of a capture -/

/-- The first twelve tap samples alone decide the data-and-telemetry field (R104, R121). -/
theorem wordToDataField_recoverWord_congr {d e : Capture}
    (h : ∀ i, i ≤ 11 → d.getLsbD (3 * i) = e.getLsbD (3 * i)) :
    wordToDataField (recoverWord d) = wordToDataField (recoverWord e) := by
  apply BitVec.eq_of_getLsbD_eq
  intro j hj
  have hrev : j + 4 = 15 - (11 - j) := by omega
  rw [wordToDataField_bit, wordToDataField_bit, hrev, recoverWord_bit d (by omega), recoverWord_bit e (by omega),
    h _ (Nat.sub_le _ _)]

/-! ### An inverted bit -/

/-- R125: the columns of the fold, as bits of the word. -/
theorem wordCheck_bit (w : Word) {j : Nat} (hj : j < 4) :
    (wordCheck w).getLsbD j = (w.getLsbD (j + 4) ^^ w.getLsbD (j + 8) ^^ w.getLsbD (j + 12)) := by
  rw [wordCheck, crcFold_bit _ j hj, wordToDataField_bit, wordToDataField_bit, wordToDataField_bit]

theorem xor_twoPow_bit (c : Crc) {k : Nat} (hk : k < 4) (j : Nat) :
    (c ^^^ BitVec.twoPow 4 k).getLsbD j = (c.getLsbD j ^^ decide (k = j)) := by
  rw [BitVec.getLsbD_xor, BitVec.getLsbD_twoPow, decide_eq_true hk, Bool.true_and]

theorem xor_twoPow_bit_ne_iff (c : Crc) {k : Nat} (hk : k < 4) (j : Nat) :
    (c ^^^ BitVec.twoPow 4 k).getLsbD j ≠ c.getLsbD j ↔ j = k := by
  rw [xor_twoPow_bit c hk, eq_comm (a := j)]
  cases c.getLsbD j <;> simp

theorem xor_twoPow_ne (c : Crc) {k : Nat} (hk : k < 4) : c ^^^ BitVec.twoPow 4 k ≠ c := fun h =>
  (xor_twoPow_bit_ne_iff c hk k).mpr rfl (congrArg (·.getLsbD k) h)

/-- A bit of the field stands in exactly one of the three places that column `j` of the fold reads. -/
theorem column_reads_bit_once : ∀ p < 16, 4 ≤ p → ∀ j < 4,
    (decide (j + 4 = p) ^^ decide (j + 8 = p) ^^ decide (j + 12 = p)) = decide (p % 4 = j) := by decide

/-- An inverted field bit inverts its column of the recomputed checksum (R128). -/
theorem wordCheck_flipBit_field (w : Word) {p : Nat} (h4 : 4 ≤ p) (h16 : p < 16) :
    wordCheck (flipBit w p) = wordCheck w ^^^ BitVec.twoPow 4 (p % 4) := by
  apply BitVec.eq_of_getLsbD_eq
  intro j hj
  rw [xor_twoPow_bit _ (Nat.mod_lt _ (by decide)), wordCheck_bit _ hj, wordCheck_bit _ hj,
    flipBit_bit w p _ (by omega), flipBit_bit w p _ (by omega), flipBit_bit w p _ (by omega),
    ← column_reads_bit_once p h16 h4 j hj]
  simp only [Bool.xor_assoc, Bool.xor_left_comm]

theorem wordCheck_flipBit_crc (w : Word) {p : Nat} (hp : p < 4) : wordCheck (flipBit w p) = wordCheck w := by
  apply BitVec.eq_of_getLsbD_eq
  intro j hj
  have hbit {i : Nat} (hi : 4 ≤ i) (hi' : i < 16) : (flipBit w p).getLsbD i = w.getLsbD i := by
    rw [flipBit_bit w p i hi', decide_eq_false (by omega), Bool.xor_false]
  rw [wordCheck_bit _ hj, wordCheck_bit _ hj, hbit (by omega) (by omega), hbit (by omega) (by omega),
    hbit (by omega) (by omega)]

theorem wordToCrc_flipBit_field (w : Word) {p : Nat} (hp : 4 ≤ p) : wordToCrc (flipBit w p) = wordToCrc w := by
  apply BitVec.eq_of_getLsbD_eq
  intro j hj
  rw [wordToCrc_bit _ j hj, wordToCrc_bit _ j hj, flipBit_bit w p j (by omega), decide_eq_false (by omega),
    Bool.xor_false]

theorem wordToCrc_flipBit_crc (w : Word) {p : Nat} (hp : p < 4) :
    wordToCrc (flipBit w p) = wordToCrc w ^^^ BitVec.twoPow 4 p := by
  apply BitVec.eq_of_getLsbD_eq
  intro j hj
  rw [xor_twoPow_bit _ hp, wordToCrc_bit _ j hj, wordToCrc_bit _ j hj, flipBit_bit w p j (by omega)]
  simp only [eq_comm]

/-- One inverted bit changes exactly one of the two checksums, so they no longer agree (R128). -/
theorem wordPasses_flipBit {w : Word} (hw : wordPasses w = true) {p : Nat} (hp : p < 16) :
    wordPasses (flipBit w p) = false := by
  rw [wordPasses_iff] at hw
  rw [← Bool.not_eq_true, wordPasses_iff]
  rcases Nat.lt_or_ge p 4 with h4 | h4
  · rw [wordCheck_flipBit_crc w h4, wordToCrc_flipBit_crc w h4, hw]
    exact (xor_twoPow_ne _ h4).symm
  · rw [wordCheck_flipBit_field w h4 hp, wordToCrc_flipBit_field w h4, hw]
    exact xor_twoPow_ne _ (Nat.mod_lt _ (by decide))

/-- Two inverted field bits of one column cancel in the fold (R128). -/
theorem wordCheck_flipBit_flipBit (w : Word) {p q : Nat} (hp : 4 ≤ p) (hp' : p < 16) (hq : 4 ≤ q) (hq' : q < 16)
    (hcolumn : p % 4 = q % 4) : wordCheck (flipBit (flipBit w p) q) = wordCheck w := by
  rw [wordCheck_flipBit_field _ hq hq', wordCheck_flipBit_field w hp hp', hcolumn, BitVec.xor_assoc, BitVec.xor_self,
    BitVec.xor_zero]

/-! ### The obligations -/

/-- Settles O18: the field is decided by the first twelve taps (`wordToDataField_recoverWord_congr`), and every value
named but the transmitted checksum and the verdict is a function of the field and the rounding. -/
theorem failedChecksumNeverChangesTheClass : Obligations.FailedChecksumNeverChangesTheClass := by
  intro s t b c hs ht hround htaps
  have hfield := wordToDataField_recoverWord_congr htaps
  refine ⟨s.takeFrame, t.takeFrame, rfl, rfl, ?_⟩
  rw [State.takeFrame_r_sixBytes hs, State.takeFrame_r_sixBytes ht, decodeWordRecord_eq, decodeWordRecord_eq, hfield,
    hround]
  exact ⟨rfl, rfl, rfl, rfl, rfl, rfl, rfl, crcVerdict_iff _ _⟩

/-- Settles O19: a field bit inverts one column of the recomputed checksum, a checksum bit one bit of the transmitted
one, and two field bits of one column cancel. -/
theorem singleBitErrorIsDetected : Obligations.SingleBitErrorIsDetected := by
  intro w p hp
  refine ⟨fun hw => wordPasses_flipBit hw hp, fun h4 => ⟨wordToCrc_flipBit_field w h4, fun j _ => ?field⟩,
    fun h4 => ⟨?crc, wordCheck_flipBit_crc w h4⟩, fun q h4 hpq hq hcolumn => ?double⟩
  case field =>
    have hcolumn : (p - 4) % 4 = p % 4 := by omega
    rw [wordCheck_flipBit_field w h4 hp, hcolumn]
    exact xor_twoPow_bit_ne_iff _ (Nat.mod_lt _ (by decide)) j
  case crc =>
    rw [wordToCrc_flipBit_crc w h4]
    exact xor_twoPow_ne _ h4
  case double =>
    have hq4 : 4 ≤ q := h4.trans hpq.le
    have hcheck := wordCheck_flipBit_flipBit w h4 hp hq4 hq hcolumn
    refine ⟨hcheck, ?_⟩
    rw [wordPasses, wordPasses, hcheck, wordToCrc_flipBit_field _ hq4, wordToCrc_flipBit_field w h4]

/-- Settles O15: each extraction writes the quotient or remainder of the value it reads. -/
theorem fieldExtractionsDivideTheWord : Obligations.FieldExtractionsDivideTheWord := by
  intro s
  rw [← wordToCrc_eq_ofNat, ← wordToDataField_eq_ofNat, ← fieldToTlm_eq_decide, ← fieldToData_eq_ofNat]
  exact ⟨rfl, rfl, rfl, rfl⟩

/-- Settles O16: the checksum is `crcFold` of the field, bit by bit `crcFold_bit`'s. -/
theorem checksumFoldsThreeNibbles : Obligations.ChecksumFoldsThreeNibbles :=
  fun s => ⟨crcFold s.nets.dataField, rfl, crcFold_bit s.nets.dataField⟩

/-- Settles O17: the verdict is `crcVerdict` of the two checksums. -/
theorem verdictComparesChecksums : Obligations.VerdictComparesChecksums :=
  fun s => ⟨Machine.crcVerdict s.nets.crcCheck s.nets.crc, rfl, crcVerdict_iff _ _⟩

end Sys2Proof.Machine

/-! ## Classifier, scaling and the record (spec/42_classifier.md R140 to R153): what each decode operation writes, the
percent as one exact division, and the operations a frame's own bits select run one by one -/

namespace Sys2Proof.Machine

open Sys2Proof.Config

/-! ### The kind, range by range of the data value (R140) -/

theorem classifyData_disarmed {data : Data} (h : data.toNat = 0) : classifyData data = .disarmed :=
  if_pos (BitVec.eq_of_toNat_eq h)

theorem classifyData_command {data : Data} (h : 1 ≤ data.toNat) (h' : data.toNat ≤ 47) :
    classifyData data = .command := by
  have hne : data ≠ 0 := fun h0 => by simp [h0] at h
  rw [classifyData, if_neg hne, if_pos h']

theorem classifyData_throttle {data : Data} (h : 48 ≤ data.toNat) : classifyData data = .throttle := by
  have hne : data ≠ 0 := fun h0 => by simp [h0] at h
  have h47 : ¬ data.toNat ≤ 47 := by omega
  rw [classifyData, if_neg hne, if_neg h47]

/-! ### The operands a word carries are the values the demultiplexer extracts (R73, R120 to R123) -/

theorem wordData_eq_fieldToData (w : Word) : wordData w = fieldToData (wordToDataField w) :=
  BitVec.eq_of_toNat_eq ((wordData_toNat w).trans (fieldToData_wordToDataField_toNat w).symm)

theorem wordTlm_eq_fieldToTlm (w : Word) : wordTlm w = fieldToTlm (wordToDataField w) := by
  rw [fieldToTlm_eq, wordToDataField_bit, wordTlm]

theorem wordCrc_eq_wordToCrc (w : Word) : wordCrc w = wordToCrc w := by
  apply BitVec.eq_of_toNat_eq
  rw [wordToCrc_toNat_mod, wordCrc_eq_setWidth, BitVec.toNat_setWidth]

/-- The demultiplexer and CLASSIFY, in the fields of the word (R73). -/
theorem Nets.classify_demux_fields (n : Nets) :
    n.demux.classify.data = wordData n.word ∧ n.demux.classify.telemetryRequest = wordTlm n.word ∧
    n.demux.classify.crc = wordCrc n.word ∧ n.demux.classify.kind = classifyData (wordData n.word) := by
  rw [wordData_eq_fieldToData, wordTlm_eq_fieldToTlm, wordCrc_eq_wordToCrc]
  exact ⟨rfl, rfl, rfl, rfl⟩

theorem Nets.selectedClass_disarmed (rounding : PctRound) {n : Nets} (h : n.kind = .disarmed) :
    n.selectedClass rounding = n.disarmed n.telemetryRequest n.crc := by
  rw [Nets.selectedClass, h]

theorem Nets.selectedClass_command (rounding : PctRound) {n : Nets} (h : n.kind = .command) :
    n.selectedClass rounding = n.command n.data n.telemetryRequest n.crc := by
  rw [Nets.selectedClass, h]

theorem Nets.selectedClass_throttle (rounding : PctRound) {n : Nets} (h : n.kind = .throttle) :
    n.selectedClass rounding = n.throttle rounding n.data n.telemetryRequest n.crc := by
  rw [Nets.selectedClass, h]

/-- The operation the word's own bits select (R84) does what the operation CLASSIFY chose does (R140). -/
theorem exec_decodeWord (s : State) (n : Nets) : exec (decodeWord n.word) (s.setNets n.demux.classify) =
    .next (s.setNets (n.demux.classify.selectedClass s.params.pctRound)) := by
  obtain ⟨hdata, htlm, hcrc, hkind⟩ := n.classify_demux_fields
  rcases Nat.eq_zero_or_pos (wordData n.word).toNat with h0 | hpos
  · rw [Nets.selectedClass_disarmed _ (hkind.trans (classifyData_disarmed h0)), decodeWord_disarmed h0, htlm, hcrc]
    rfl
  by_cases h47 : (wordData n.word).toNat ≤ 47
  · rw [Nets.selectedClass_command _ (hkind.trans (classifyData_command hpos h47)), decodeWord_command hpos h47,
      hdata, htlm, hcrc]
    rfl
  · have h48 : 48 ≤ (wordData n.word).toNat := by omega
    rw [Nets.selectedClass_throttle _ (hkind.trans (classifyData_throttle h48)), decodeWord_throttle h48, hdata, htlm,
      hcrc]
    rfl

/-! ### The operations of a frame, one by one (R152) -/

theorem runOps_cons {i : Instr} {s t : State} (h : exec i s = .next t) (rest : List Instr) :
    runOps (i :: rest) s = runOps rest t := by
  rw [runOps, h]

theorem runOps_append {is : List Instr} {s t : State} (h : runOps is s = .next t) (js : List Instr) :
    runOps (is ++ js) s = runOps js t := by
  induction is generalizing s with
  | nil =>
    cases h
    rfl
  | cons i is ih =>
    rw [runOps] at h
    split at h
    next u hu => rw [List.cons_append, runOps_cons hu, ih h]
    next => cases h
    next => cases h

theorem runOps_program_capture (d : Capture) (s : State) :
    runOps (program (.fCap d)) s = .next (s.setNets (s.nets.recover s.ports)) := rfl

@[simp] theorem State.setNets_setNets (s : State) (m n : Nets) : (s.setNets m).setNets n = s.setNets n := rfl

/-- The stages every word passes through before the operation it selects. -/
theorem runOps_stagesBefore_word (w : Word) (s : State) :
    runOps (stagesBefore (.fWord w)) s = .next (s.setNets s.nets.demux.classify) := by
  simp only [stagesBefore, runOps, exec, execExtractCrc, execExtractDf, execExtractTlm, execExtractData, execCrc4,
    execCrcVerdict, execClassify, State.setNets_nets, State.setNets_setNets, Nets.demux]

/-- The word's stages, the operation it selects, SCALE and FORM_RECORD are the demultiplexer and the classifier. -/
theorem runOps_program_word_record (s : State) : runOps (program (.fWord s.nets.word) ++ program .fRec) s =
    .next (s.setNets (s.nets.demux.conclude s.params.pctRound s.ports)) := by
  have hprogram : program (.fWord s.nets.word) ++ program .fRec =
      stagesBefore (.fWord s.nets.word) ++ [decodeWord s.nets.word, .scale, .formRecord] := rfl
  rw [hprogram, runOps_append (runOps_stagesBefore_word _ s), runOps_cons (exec_decodeWord s s.nets)]
  rfl

theorem runOps_program_length {len : Length} (h : len ≠ 6) (s : State) :
    runOps (program (.fLen len)) s = .next (s.setNets (s.nets.lenErr s.ports)) := by
  have hprogram : program (.fLen len) = [.decLenerr len] := by
    simp [program, decode, decodeLen_of_ne h, stagesBefore, stagesAfter]
  rw [hprogram]
  rfl

/-- The accept edge's write, by the values it settles to (R171). -/
theorem State.takeFrame_eq_of_settle {s : State} {n : Nets} (h : s.nets.settle s.params.pctRound s.ports = n) :
    s.takeFrame = { s.setNets n with r := { valid := true, record := n.record } } := by
  subst h
  rfl

/-! ### The passing Disarmed words (R141) -/

/-- All 32 Disarmed words. -/
theorem wordPasses_mkWord_disarmed : ∀ (tlm : Bool) (crc : Crc),
    wordPasses (mkWord 0 tlm crc) = true ↔ mkWord 0 tlm crc = 0x0000 ∨ mkWord 0 tlm crc = 0x0011 := by decide

theorem wordPasses_iff_of_disarmed {w : Word} (h : w.toNat / 32 = 0) :
    wordPasses w = true ↔ w = 0x0000 ∨ w = 0x0011 := by
  have hdata : wordData w = 0 := BitVec.eq_of_toNat_eq ((wordData_toNat w).trans h)
  rw [← mkWord_fields w, hdata]
  exact wordPasses_mkWord_disarmed _ _

/-! ### The command code (R142) -/

theorem commandCode_toNat {data : Data} (h : data.toNat ≤ 47) : (commandCode data).toNat = data.toNat := by
  rw [commandCode, BitVec.toNat_setWidth, Nat.mod_eq_of_lt (by omega)]

/-! ### The percent in numbers (R144 to R147) -/

theorem pctRemOf_toNat (v : Value) : (pctRemOf v).toNat = v.toNat * 10000 % 1999 := scaleRem_toNat v

theorem pctRemOf_eq_zero_iff {v : Value} (h : v.toNat ≤ 1999) :
    pctRemOf v = 0 ↔ v.toNat = 0 ∨ v.toNat = 1999 := by
  have hzero : (0 : PctRem).toNat = 0 := rfl
  rw [← BitVec.toNat_inj, pctRemOf_toNat, hzero]
  omega

theorem decodePct_succ (rounding : PctRound) (value : Nat) :
    decodePct rounding (value + 1) = decodePct rounding value + 5 ∨
    decodePct rounding (value + 1) = decodePct rounding value + 6 := by
  cases rounding with
  | trunc => simp only [decodePct]; omega
  | nearest => simp only [decodePct]; split <;> split <;> omega

theorem decodePct_nearest (value : Nat) : decodePct .nearest value =
    decodePct .trunc value + (if 2 * (value * 10000 % 1999) ≥ 1999 then 1 else 0) := rfl

theorem pctOf_trunc_eq_full_iff (v : Value) : pctOf .trunc v = 10000 ↔ v.toNat = 1999 := by
  have hfull : (10000 : Pct).toNat = 10000 := rfl
  rw [← BitVec.toNat_inj, pctOf_toNat, decodePct, hfull]
  omega

/-- 10000 is 5 modulo 1999. -/
theorem mul_10000_mod (n : Nat) : n * 10000 % 1999 = n * 5 % 1999 :=
  Nat.ModEq.mul_left n (show 10000 ≡ 5 [MOD 1999] from rfl)

/-- The two roundings agree exactly where the remainder is below the half of 1999. -/
theorem pctOf_trunc_eq_nearest_iff {n : Nat} (hn : n < 2000) :
    pctOf .trunc (BitVec.ofNat 11 n) = pctOf .nearest (BitVec.ofNat 11 n) ↔ n * 5 % 1999 < 1000 := by
  have hv : (BitVec.ofNat 11 n).toNat = n := by rw [BitVec.toNat_ofNat, Nat.mod_eq_of_lt (by omega)]
  rw [← BitVec.toNat_inj, pctOf_toNat, pctOf_toNat, decodePct_nearest, hv, mul_10000_mod]
  split <;> omega

/-- A product of 2000 is 1 modulo 1999, so multiplying by the one factor undoes the other. -/
theorem mul_mod_mul_mod_cancel {a b k : Nat} (hab : a * b = 2000) (hk : k < 1999) : k * a % 1999 * b % 1999 = k := by
  rw [Nat.mod_mul_mod, Nat.mul_assoc, hab]
  omega

/-- Multiplication by 5 permutes the remainders by 1999, so the values whose remainder is at least 1000 are as many as
the numbers from 1000 to 1998. -/
theorem card_roundedUp : ((Finset.range 2000).filter (1000 ≤ · * 5 % 1999)).card = 999 := by
  have hbij : ((Finset.range 2000).filter (1000 ≤ · * 5 % 1999)).card = (Finset.Ico 1000 1999).card := by
    refine Finset.card_nbij' (· * 5 % 1999) (· * 400 % 1999) (fun n hn => ?rem) (fun r hr => ?value)
      (fun n hn => ?value_rem) (fun r hr => ?rem_value)
    all_goals simp only [Finset.coe_filter, Finset.coe_Ico, Finset.mem_range, Set.mem_ofPred_eq, Set.mem_Ico] at *
    case rem => omega
    case value =>
      rw [mul_mod_mul_mod_cancel rfl hr.2]
      omega
    case value_rem => exact mul_mod_mul_mod_cancel rfl (by omega)
    case rem_value => exact mul_mod_mul_mod_cancel rfl hr.2
  rw [hbij, Nat.card_Ico]

/-! ### The kind of the record DECODE returns (R152) -/

theorem decodeClass_kind_ne_lenerr (rounding : PctRound) (data : Nat) : (decodeClass rounding data).1 ≠ .lenerr := by
  unfold decodeClass
  split_ifs <;> exact nofun

theorem decodeFrame_kind_lenerr_iff (rounding : PctRound) (len data48 tsS tsE : Nat) :
    (decodeFrame rounding len data48 tsS tsE).kind = .lenerr ↔ len ≠ 6 := by
  unfold decodeFrame
  split_ifs with h
  · exact iff_of_true rfl h
  · exact iff_of_false (decodeClass_kind_ne_lenerr rounding _) h

/-! ### The obligations -/

/-- Settles O36: the capture's operations are bit recovery, the word's and FORM_RECORD are the demultiplexer and the
classifier (`runOps_program_word_record`), and the accept edge settles to the same values. -/
theorem acceptRunsTheFramesOperations : Obligations.AcceptRunsTheFramesOperations := by
  refine fun s b => ⟨s.takeFrame, rfl, fun hlen => ?sixBytes, fun hlen => ?lengthError⟩
  case sixBytes =>
    have hsettle := Nets.settle_sixBytes s.params.pctRound s.nets hlen
    exact ⟨_, _, runOps_program_capture _ s, runOps_program_word_record _, State.takeFrame_eq_of_settle hsettle⟩
  case lengthError =>
    have hsettle := Nets.settle_lenErr s.params.pctRound s.nets hlen
    exact ⟨_, runOps_program_length hlen s, State.takeFrame_eq_of_settle hsettle⟩

/-- Settles O21: the write is the model's own, and the passing words are `wordPasses_iff_of_disarmed`'s. -/
theorem disarmedOutcome : Obligations.DisarmedOutcome :=
  ⟨fun _ _ _ => rfl, fun _ => wordPasses_iff_of_disarmed, by decide⟩

/-- Settles O23: the subtraction does not underflow (`throttleValue_toNat`), and the percent is that of its result. -/
theorem throttleOutcome : Obligations.ThrottleOutcome := by
  intro s data tlm crc h48
  have hvalue : (throttleValue data).toNat = data.toNat - 48 := throttleValue_toNat data h48
  refine ⟨s.setNets (s.nets.throttle s.params.pctRound data tlm crc), rfl, rfl, rfl, rfl, hvalue, ?range, ?rem, ?pct⟩
  case range =>
    have hle : data.toNat - 48 ≤ 1999 := by omega
    exact hvalue.trans_le hle
  case rem => exact hvalue ▸ pctRemOf_toNat (throttleValue data)
  case pct => exact hvalue ▸ pctOf_toNat s.params.pctRound (throttleValue data)

/-- Settles O24: the product, the quotient and the remainder fit their widths. -/
theorem scaleIsOneExactDivision : Obligations.ScaleIsOneExactDivision := by
  intro s
  have hnum := scaleNum_toNat s.nets.value
  refine ⟨scaleNum s.nets.value, scaleQuot (scaleNum s.nets.value), pctOf s.params.pctRound s.nets.value,
    pctRemOf s.nets.value, rfl, hnum, ?quot, ?rem, fun h => ?trunc, fun h => ?nearest⟩
  case quot => rw [hnum, scaleQuot_toNat]
  case rem => rw [hnum, pctRemOf_toNat]
  case trunc => rw [h]; rfl
  case nearest => rw [h, pctOf_toNat, decodePct, scaleQuot_toNat, pctRemOf_toNat]

/-- Settles O25, fact by fact, on the numbers that the percent and the remainder are. -/
theorem percentExactnessFacts : Obligations.PercentExactnessFacts := by
  intro value hle
  refine ⟨pctRemOf_eq_zero_iff hle, by decide, by decide, by decide, by decide, ?noTie, fun rounding hlt => ?step,
    ?nearest, fun rounding => ?pctRange, ?remRange, pctOf_trunc_eq_full_iff value⟩
  case noTie => omega
  case step =>
    have hsucc : (value + 1).toNat = value.toNat + 1 :=
      BitVec.toNat_add_of_lt (show value.toNat + 1 < 2 ^ 11 by omega)
    rw [pctOf_toNat, pctOf_toNat, hsucc]
    exact decodePct_succ rounding value.toNat
  case nearest =>
    rw [pctOf_toNat, pctOf_toNat, decodePct_nearest]
    split
    · exact .inr rfl
    · exact .inl rfl
  case pctRange =>
    rw [pctOf_toNat]
    exact decodePct_le rounding hle
  case remRange =>
    rw [pctRemOf_toNat]
    omega

/-- Settles O26: the roundings differ where the remainder of `5 * value` is at least 1000
(`pctOf_trunc_eq_nearest_iff`), and those values are counted by their remainders (`card_roundedUp`). -/
theorem roundingsDifferAt999Values : Obligations.RoundingsDifferAt999Values := by
  refine ⟨?count, fun n hn hends => ?ends, by decide, by decide, by decide, by decide, by decide, by decide,
    by decide, by decide⟩
  case count =>
    have hfilter : (List.range 2000).filter
          (fun n => pctOf .trunc (BitVec.ofNat 11 n) != pctOf .nearest (BitVec.ofNat 11 n)) =
        (List.range 2000).filter (fun n => 1000 ≤ n * 5 % 1999) := by
      refine List.filter_congr fun n hn => ?_
      rw [Bool.eq_iff_iff, bne_iff_ne, Ne, pctOf_trunc_eq_nearest_iff (List.mem_range.mp hn), decide_eq_true_iff,
        Nat.not_lt]
    rw [hfilter, ← List.countP_eq_length_filter]
    exact (Nat.count_eq_card_filter_range _ 2000).trans card_roundedUp
  case ends =>
    rw [pctOf_trunc_eq_nearest_iff hn]
    rcases hends with hlow | hhigh
    · rw [Nat.mod_eq_of_lt (by omega)]
      omega
    · rw [show n = 1999 by omega]
      decide

/-- Settles O27: an accepted frame's record is DECODE of it, which is legal and keeps the timestamps. -/
theorem formRecordGathersEveryField : Obligations.FormRecordGathersEveryField := by
  refine ⟨fun s b _ => ⟨s.takeFrame, rfl, ?_⟩, fun s => rfl⟩
  rw [s.takeFrame_r]
  obtain ⟨hstart, hend⟩ := decodeFrame_timestamps s.params.pctRound s.ports.inLen.toNat s.ports.inData.toNat
    s.ports.inTsStart s.ports.inTsEnd
  have hlegal := decodeFrame_legal s.params.pctRound s.ports.inLen.toNat s.ports.inData.toNat
    s.ports.inTsStart s.ports.inTsEnd
  exact ⟨hstart, hend, hlegal.codeZero, hlegal.throttleZero⟩

/-- Settles O30: `decodeFrame_legal`, and kind 3 stands for a length error alone. -/
theorem decodedRecordsAreInRange : Obligations.DecodedRecordsAreInRange := by
  intro rounding len data tsS tsE
  have h6 : len.toNat ≠ 6 ↔ len ≠ 6 := not_congr (BitVec.toNat_inj (y := 6))
  exact ⟨decodeFrame_legal _ _ _ _ _, (decodeFrame_kind_lenerr_iff _ _ _ _ _).trans h6⟩

/-- Settles O20: the kind is `classifyData` of the data value. -/
theorem classifyReadsDataAlone : Obligations.ClassifyReadsDataAlone :=
  fun s => ⟨classifyData s.nets.data, rfl, classifyData_disarmed, classifyData_command, classifyData_throttle⟩

/-- Settles O22: a data value of at most 47 fits the 6 bits of the code. -/
theorem commandOutcome : Obligations.CommandOutcome :=
  fun _ data _ _ _ h47 => ⟨commandCode data, commandCode_toNat h47, rfl⟩

end Sys2Proof.Machine

/-! ## Transactions (spec/43_transactions.md R170 to R178): the operation selected says what is accepted and retired, an
edge neither drops nor repeats a record, and what runs of edges take and hand over -/

namespace Sys2Proof.Machine

/-! ### The operation selected and the frame taken, the record retired -/

/-- A frame is taken at ACCEPT and ACCEPT_RETIRE, and at no other operation (R171, R172). -/
theorem State.accepts_iff_selected (s : State) :
    s.accepts = true ↔ (∃ b, s.selected = .accept b) ∨ s.selected = .acceptRetire :=
  s.accepts_iff.trans (frameIsTakenExactlyWhenReady s).2.symm

/-- A record is handed over at RETIRE and ACCEPT_RETIRE, and at no other operation (R172, R173). -/
theorem State.retires_iff_selected (s : State) :
    s.retires = true ↔ s.selected = .retire ∨ s.selected = .acceptRetire := by
  rw [s.retires_iff, s.selected_eq]
  split <;> simp [*]

/-- A frame is offered to a register that is full and whose consumer is not ready (R176). -/
theorem State.selected_stall_iff (s : State) : s.selected = .stall ↔
    s.ports.rst = false ∧ s.ports.inValid = true ∧ s.r.valid = true ∧ s.ports.outReady = false := by
  rw [s.selected_eq]
  split <;> simp [*]

/-- A held record that the consumer does not take waits (R174, R176). -/
theorem State.selected_of_held {s : State} (hv : s.r.valid = true) (hrst : s.ports.rst = false)
    (hready : s.ports.outReady = false) : s.selected = .hold ∨ s.selected = .stall := by
  rw [s.selected_eq, hv, hrst, hready]
  cases s.ports.inValid
  · exact .inl rfl
  · exact .inr rfl

theorem State.acceptedNow_of_accepts {s : State} (h : s.accepts = true) : s.acceptedNow = [s.ports.frame] := if_pos h

theorem State.retiredNow_of_retires {s : State} (h : s.retires = true) : s.retiredNow = [s.r.record] := if_pos h

theorem State.acceptedNow_eq_nil_iff (s : State) : s.acceptedNow = [] ↔ ¬ s.accepts = true := by
  unfold State.acceptedNow
  split_ifs with h <;> simp [h]

theorem State.retiredNow_eq_nil_iff (s : State) : s.retiredNow = [] ↔ ¬ s.retires = true := by
  unfold State.retiredNow
  split_ifs with h <;> simp [h]

/-! ### One edge -/

/-- The step is the operation selected, then the next levels (R170, R89). -/
theorem step_of_exec_selected {s t : State} (h : exec s.selected s = .next t) : step s = .next t.present := by
  rw [step, h]

/-- The register after an edge that accepts. -/
theorem State.edge_r_of_accepts {s : State} (h : s.accepts = true) :
    s.edge.r = { valid := true, record := s.ports.frame.decoded s.params.pctRound } := by
  rw [s.edge_r, edgeEffect_of_accepts h, s.takeFrame_r, Ports.decoded_eq]

theorem State.held_edge_of_accepts {s : State} (h : s.accepts = true) :
    s.edge.held = [s.ports.frame.decoded s.params.pctRound] := by
  rw [State.held, edge_r_of_accepts h]
  rfl

/-- Where a frame is accepted, the record held is handed over at the same edge (R171, R172). -/
theorem State.retiredNow_eq_held_of_accepts {s : State} (h : s.accepts = true) : s.retiredNow = s.held := by
  obtain ⟨hrst, hroom⟩ := s.inReady_iff.mp (s.accepts_iff.mp h).2
  cases hv : s.r.valid with
  | false => simp [State.retiredNow, State.held, State.retires, State.outValid, hv]
  | true =>
    have hready : s.ports.outReady = true := hroom.resolve_left (by simp [hv])
    simp [State.retiredNow, State.held, State.retires, State.outValid, hv, hrst, hready]

/-- An edge drops no record and repeats none: what it hands over and what is held after it are what was held before
and DECODE of what it accepts (R177). -/
theorem State.retiredNow_append_held_edge {s : State} (hrst : s.ports.rst = false) :
    s.retiredNow ++ s.edge.held = s.held ++ s.acceptedNow.map (Frame.decoded s.params.pctRound) := by
  by_cases hacc : s.accepts = true
  · rw [retiredNow_eq_held_of_accepts hacc, acceptedNow_of_accepts hacc, held_edge_of_accepts hacc]
    rfl
  have hedge : s.edge.r = if s.retires then { s.r with valid := false } else s.r := by
    rw [s.edge_r, edgeEffect_r, if_neg (by simp [hrst]), if_neg hacc]
  rw [s.acceptedNow_eq_nil_iff.mpr hacc, State.held, hedge]
  by_cases hret : s.retires = true
  · obtain ⟨-, hv, -⟩ := s.retires_iff.mp hret
    simp [retiredNow_of_retires hret, State.held, hret, hv]
  · simp [s.retiredNow_eq_nil_iff.mpr hret, State.held, hret]

/-! ### Runs of edges -/

theorem State.acceptedOver_eq_nil_iff (n : Nat) (s : State) :
    s.acceptedOver n = [] ↔ ∀ k, k < n → (s.after k).acceptedNow = [] := by
  induction n generalizing s with
  | zero => simp [State.acceptedOver]
  | succ n ih => simp only [State.acceptedOver, List.append_eq_nil_iff, ih, Nat.forall_lt_succ_left, State.after]

theorem State.retiredOver_eq_nil_iff (n : Nat) (s : State) :
    s.retiredOver n = [] ↔ ∀ k, k < n → (s.after k).retiredNow = [] := by
  induction n generalizing s with
  | zero => simp [State.retiredOver]
  | succ n ih => simp only [State.retiredOver, List.append_eq_nil_iff, ih, Nat.forall_lt_succ_left, State.after]

/-- Between resets the stream of records is kept edge by edge (R177). -/
theorem State.retiredOver_append_held {n : Nat} {s : State} (h : s.noReset n) :
    s.retiredOver n ++ (s.after n).held =
      s.held ++ (s.acceptedOver n).map (Frame.decoded s.params.pctRound) := by
  induction n generalizing s with
  | zero => simp [State.retiredOver, State.acceptedOver, State.after]
  | succ n ih =>
    obtain ⟨hrst, hrest⟩ := h
    have hlater := ih hrest
    rw [s.edge_params] at hlater
    rw [State.retiredOver, State.acceptedOver, State.after, List.append_assoc, hlater, ← List.append_assoc,
      retiredNow_append_held_edge hrst, List.append_assoc, List.map_append]

/-! ### A word placed on the ports (log entry 10) -/

theorem frameBits_bit (w : Word) (fill : Bool) {n : Nat} (hn : n ≤ 48) (k : Nat) :
    (frameBits w fill n).getLsbD k = (decide (k < n) && frameBit w fill k) := by
  induction n with
  | zero => simp [frameBits]
  | succ n ih =>
    rw [frameBits, BitVec.getLsbD_or, ih (by omega), BitVec.getLsbD_shiftLeft, BitVec.getLsbD_setWidth,
      BitVec.getLsbD_ofBool]
    rcases Nat.lt_trichotomy k n with hlt | rfl | hgt
    · simp [hlt, Nat.lt_succ_of_lt hlt]
    · simp [show k < 48 by omega]
    · simp [show ¬ k < n by omega, show ¬ k < n + 1 by omega, show k - n ≠ 0 by omega]

/-- The canonical capture of a word holds its complemented bits on the taps (R107). -/
theorem frame_tap (w : Word) (fill : Bool) {i : Nat} (hi : i ≤ 15) :
    (frame w fill).getLsbD (3 * i) = !w.getLsbD (15 - i) := by
  have hlt : 3 * i < 48 := by omega
  rw [frame, frameBits_bit w fill (Nat.le_refl 48), decide_eq_true hlt, Bool.true_and, frameBit,
    if_pos (Nat.mul_mod_right 3 i), Nat.mul_div_cancel_left i (by decide)]

/-- The round trip of R108 on the canonical capture. -/
theorem recoverWord_frame (w : Word) (fill : Bool) : recoverWord (frame w fill) = w :=
  recoverWord_eq_of_taps fun _ => frame_tap w fill

theorem formOf_word {w : Nat} (hw : w < 65536) : formOf 16 w = .ok (.fWord (BitVec.ofNat 16 w)) := by
  unfold formOf
  rw [if_neg (by omega), if_neg (by decide), if_pos rfl]

/-- Placing a word offers its canonical capture to a ready block. -/
theorem State.withFetchWord_word (s : State) {w : Nat} (hw : w < 65536) : s.withFetchWord 16 w =
    { s with ports :=
      { s.ports with
        rst := false, inValid := true, outReady := true, inLen := Config.nBytes
        inData := frame (BitVec.ofNat 16 w) false } } := by
  unfold State.withFetchWord
  rw [formOf_word hw]

/-! ### The obligations -/

/-- Settles O39: the edge's effect on R (`edgeEffect_r`), with the two handshakes written as levels. -/
theorem edgeFollowsTheStepFunction : Obligations.EdgeFollowsTheStepFunction := by
  refine fun s => ⟨_, step_eq s, ?_⟩
  rw [State.present_r, edgeEffect_r, State.accepts, State.retires, State.inReady, State.outValid]
  cases s.ports.rst with
  | true => rfl
  | false => simp

/-- Settles O51: the stream of records is kept edge by edge; at one edge, an accept hands over all that was held, so
what is held after it is DECODE of the frame alone. -/
theorem retiredRecordsAreTheAcceptedFramesInOrder : Obligations.RetiredRecordsAreTheAcceptedFramesInOrder := by
  refine ⟨fun n s => State.retiredOver_append_held, fun n s hrst => ?_⟩
  have hkept := State.retiredNow_append_held_edge hrst
  rw [State.after_params] at hkept
  have hhanded (hacc : (s.after n).acceptedNow ≠ []) : (s.after n).retiredNow = (s.after n).held :=
    State.retiredNow_eq_held_of_accepts (by simpa [State.acceptedNow_eq_nil_iff] using hacc)
  rw [State.after_succ]
  refine ⟨hhanded, fun f hf => ?accepted, fun hacc hret => ?kept⟩
  case accepted =>
    rw [hhanded (by simp [hf]), hf] at hkept
    exact List.append_cancel_left hkept
  case kept => simpa [hacc, hret] using hkept

/-- Settles O31: the accept edge's write (`State.takeFrame_r`). -/
theorem acceptWritesDecodeOfTheFrame : Obligations.AcceptWritesDecodeOfTheFrame :=
  fun s _ => ⟨s.takeFrame, rfl, s.takeFrame_r, rfl, rfl, rfl⟩

/-- Settles O32: ACCEPT_RETIRE is among the operations that retire and those that accept, and writes as ACCEPT does. -/
theorem acceptRetireWritesTheNewRecord : Obligations.AcceptRetireWritesTheNewRecord := by
  refine ⟨fun s hsel => ⟨?retired, ?accepted⟩, fun s => ⟨s.takeFrame, rfl, s.takeFrame_r, rfl, rfl, rfl⟩⟩
  case retired => exact State.retiredNow_of_retires (s.retires_iff_selected.mpr (.inr hsel))
  case accepted => exact State.acceptedNow_of_accepts (s.accepts_iff_selected.mpr (.inr hsel))

/-- Settles O34: none of the three is an operation that accepts or retires, and STALL stands for a full register. -/
theorem idleHoldAndStallWriteNothing : Obligations.IdleHoldAndStallWriteNothing := by
  refine ⟨fun s b => ⟨rfl, rfl, rfl⟩, fun s => ⟨fun hsel => ?nothing, fun hstall => ?notReady⟩⟩
  case nothing =>
    rw [s.acceptedNow_eq_nil_iff, s.retiredNow_eq_nil_iff, s.accepts_iff_selected, s.retires_iff_selected]
    rcases hsel with ⟨b, h⟩ | h | h <;> simp [h]
  case notReady =>
    obtain ⟨-, hin, hv, hready⟩ := s.selected_stall_iff.mp hstall
    exact ⟨by simp [State.inReady, hv, hready], hin⟩

/-- Settles O45: the placed word is accepted at the next edge, and its canonical capture is recovered as the word. -/
theorem offeredWordRunsFirstAfterReset : Obligations.OfferedWordRunsFirstAfterReset := by
  intro w hw
  refine ⟨_, step_eq _, ?_⟩
  have hword : (BitVec.ofNat 16 w).toNat = w := (BitVec.toNat_ofNat w 16).trans (Nat.mod_eq_of_lt hw)
  rw [State.withFetchWord_word _ hw, State.present_r, edgeEffect_of_accepts rfl, State.takeFrame_r_sixBytes rfl,
    recoverWord_frame, hword]
  rfl

/-- Settles O50: before the first chance no edge accepts, and while the record waits no edge retires; the register
stays as it is meanwhile (`State.after_r_of_held`). -/
theorem stableOfferIsAcceptedAtFirstChance : Obligations.StableOfferIsAcceptedAtFirstChance := by
  refine ⟨fun n s hoffer hblocked hrst hroom => ?offer, fun n s hv hheld => ?record⟩
  case offer =>
    obtain ⟨hin, hframe⟩ := hoffer n (Nat.le_refl n)
    have hacc : (s.after n).accepts = true :=
      (s.after n).accepts_iff.mpr ⟨hin, (s.after n).inReady_iff.mpr ⟨hrst, hroom⟩⟩
    refine ⟨(s.acceptedOver_eq_nil_iff n).mpr fun k hk => ?none, ?now, ?next⟩
    case none =>
      rw [State.acceptedNow_eq_nil_iff, State.accepts_iff, State.inReady_iff]
      exact fun h => hblocked k hk h.2
    case now => rw [State.acceptedNow_of_accepts hacc, hframe]
    case next => rw [State.after_succ, State.edge_r_of_accepts hacc, hframe, State.after_params]
  case record =>
    have hstays {k : Nat} (hk : k ≤ n) : (s.after k).r = s.r :=
      State.after_r_of_held hv fun j hj => hheld j (by omega)
    refine ⟨fun hrst hready => ⟨(s.retiredOver_eq_nil_iff n).mpr fun k hk => ?none, ?now⟩, fun k hk => ?waits⟩
    case none =>
      rw [State.retiredNow_eq_nil_iff, State.retires_iff]
      simp [(hheld k hk).2]
    case now =>
      have hr : (s.after n).r = s.r := hstays (Nat.le_refl n)
      rw [State.retiredNow_of_retires ((s.after n).retires_iff.mpr ⟨hrst, hr ▸ hv, hready⟩), hr]
    case waits =>
      obtain ⟨hrst, hready⟩ := hheld k hk
      exact State.selected_of_held (hstays (Nat.le_of_lt hk) ▸ hv) hrst hready

/-- Settles O33: RETIRE's write is the model's own, and it is selected only at an edge that retires. -/
theorem retireClearsValidAlone : Obligations.RetireClearsValidAlone :=
  fun s => ⟨rfl, fun hsel => (s.retires_iff.mp (s.retires_iff_selected.mpr (.inl hsel))).2.1⟩

/-- Settles O38: the operation decoded is the one selected, and `present` drives the next line's levels. -/
theorem stepRunsTheDecodedOperation : Obligations.StepRunsTheDecodedOperation := by
  intro s t i hdecode hexec
  obtain rfl : s.selected = i := Except.ok.inj hdecode
  refine ⟨t.present, step_of_exec_selected hexec, t.present_params, t.present_r, t.present_nets, State.present_nil,
    fun l rest hline => ?_⟩
  rw [State.present_cons hline]
  exact ⟨rfl, rfl, rfl, rfl, rfl, rfl, rfl⟩

end Sys2Proof.Machine

/-! ## Errors (spec/60_exceptions.md R200 to R203): a length error is delivered as a record and comes before the bytes,
and nothing stops the block -/

namespace Sys2Proof.Machine

/-! ### The accept edge on a length error (R201, R203) -/

/-- No stage runs on the bytes: the register and the intermediate record take the length-error record alone. -/
theorem State.takeFrame_lenErr {s : State} (h : s.ports.inLen ≠ 6) : s.takeFrame =
    { s.setNets (s.nets.lenErr s.ports) with r := { valid := true, record := lenErrRecord s.ports } } :=
  State.takeFrame_eq_of_settle (Nets.settle_lenErr s.params.pctRound s.nets h)

/-- The record taken is of kind 3 exactly where the byte count is not 6, whatever the bytes are. -/
theorem State.takeFrame_kind_lenerr_iff (s : State) :
    s.takeFrame.r.record.kind = .lenerr ↔ s.ports.inLen ≠ 6 := by
  rw [s.takeFrame_r]
  exact (decodedRecordsAreInRange _ s.ports.inLen s.ports.inData s.ports.inTsStart s.ports.inTsEnd).2

/-! ### Every operation completes (R200) -/

/-- Each of `exec`'s arms answers a next state. -/
theorem exec_completes (i : Instr) (s : State) : ∃ t : State, exec i s = .next t := by
  cases i <;> exact ⟨_, rfl⟩

/-! ### The obligations -/

/-- Settles O29: an accept edge settles a wrong byte count to the length-error record alone
(`State.takeFrame_lenErr`), and six bytes never give its kind (`State.takeFrame_kind_lenerr_iff`). -/
theorem lengthErrorTakesPrecedence : Obligations.LengthErrorTakesPrecedence := by
  refine fun s b => ⟨s.takeFrame, rfl, fun hlen => ?lengthError, fun hlen hkind => ?sixBytes⟩
  case lengthError =>
    rw [State.takeFrame_lenErr hlen]
    exact ⟨rfl, rfl⟩
  case sixBytes => exact s.takeFrame_kind_lenerr_iff.mp hkind hlen

/-- Settles O28: DEC_LENERR's write is `Nets.lenErr`, which puts `lenErrRecord` of the ports in the record. -/
theorem lengthErrorFormsEmptyRecord : Obligations.LengthErrorFormsEmptyRecord :=
  fun _ _ => rfl

/-- Settles O40: every operation completes (`exec_completes`), and an edge does what `step_eq` says. -/
theorem noOperationStopsTheBlock : Obligations.NoOperationStopsTheBlock :=
  ⟨exec_completes, fun s => ⟨_, step_eq s⟩⟩

end Sys2Proof.Machine

/-! ## Reset and hazards (spec/70_reset_and_hazards.md R230 to R241): an edge with `rst == 1` clears VALID and does
nothing else, however often it is repeated, and the consumer reads a record only while it is valid -/

namespace Sys2Proof.Machine

/-! ### The reset edge (R230, R231) -/

/-- Reset dominates the handshake: whatever is offered, held or ready, the operation selected is RESET. -/
theorem State.selected_of_rst {s : State} (h : s.ports.rst = true) :
    s.selected = .reset s.ports.inValid s.r.valid s.ports.outReady := by
  rw [s.selected_eq, h]

theorem State.inReady_of_rst {s : State} (h : s.ports.rst = true) : s.inReady = false := by
  rw [State.inReady, h]
  rfl

theorem State.not_accepts_of_rst {s : State} (h : s.ports.rst = true) : ¬ s.accepts = true := by
  simp [s.accepts_iff, State.inReady_of_rst h]

theorem State.not_retires_of_rst {s : State} (h : s.ports.rst = true) : ¬ s.retires = true := by
  simp [s.retires_iff, h]

theorem edgeEffect_of_rst {s : State} (h : s.ports.rst = true) : edgeEffect s = s.setValid false := if_pos h

theorem State.edge_r_of_rst {s : State} (h : s.ports.rst = true) :
    s.edge.r = { valid := false, record := s.r.record } := by
  rw [s.edge_r, edgeEffect_of_rst h]
  rfl

/-- However many reset edges pass, R is empty and its other fields are as they were before the first (R232). -/
theorem State.after_r_of_rst {n : Nat} {s : State} (h : ∀ k, k ≤ n → (s.after k).ports.rst = true) :
    (s.after (n + 1)).r = { valid := false, record := s.r.record } := by
  induction n with
  | zero => exact State.edge_r_of_rst (h 0 (Nat.le_refl 0))
  | succ n ih =>
    have hbefore : (s.after (n + 1)).r = { valid := false, record := s.r.record } := ih fun k hk => h k (by omega)
    rw [State.after_succ, State.edge_r_of_rst (h (n + 1) (Nat.le_refl _)), hbefore]

/-! ### The state after reset (R234) -/

theorem Record.zero_legal : Record.zero.Legal where
  codeZero _ := rfl
  codeRange hkind := nomatch hkind
  throttleZero _ := ⟨rfl, rfl, rfl⟩
  throttleRange := by decide
  lenerrEmpty hkind := nomatch hkind

theorem State.inv_reset : State.reset.Inv where
  legal := Record.zero_legal
  oneFrame hvalid := nomatch hvalid
  recordFits := ⟨Nat.two_pow_pos 64, Nat.two_pow_pos 64⟩
  portsFit := ⟨Nat.two_pow_pos 64, Nat.two_pow_pos 64⟩
  stimulusFits _ hline := nomatch hline

/-! ### The consumer's reads (R241) -/

/-- `out_valid` may be read at any time. -/
theorem readOutput_outValid (s : State) : readOutput .outValid s = .next s.r.valid.toNat := if_pos (.inl rfl)

/-- While `out_valid == 1` the port of the kind reads the code of its name (R81). -/
theorem readOutput_outKind {s : State} (hvalid : s.r.valid = true) {kind : Kind} (hkind : s.r.record.kind = kind) :
    readOutput .outKind s = .next kind.code.toNat := by
  subst hkind
  exact readOutput_of_valid hvalid .outKind

/-! ### The obligations -/

/-- Settles O48: after every reset edge R is the register before the first one with VALID cleared
(`State.after_r_of_rst`, by induction on the number of edges). -/
theorem oneResetEdgeSuffices : Obligations.OneResetEdgeSuffices := by
  intro n s hrst
  have hfirst : s.ports.rst = true := hrst 0 (Nat.zero_le n)
  rw [State.after_r_of_rst hrst, State.edge_r_of_rst hfirst]
  exact ⟨rfl, rfl⟩

/-- Settles O35: RESET's write is the model's own, and `rst` alone selects it and lowers `in_ready`. -/
theorem resetEdgeClearsValidAlone : Obligations.ResetEdgeClearsValidAlone :=
  fun _ _ _ _ => ⟨rfl, fun hrst => ⟨State.inReady_of_rst hrst, State.selected_of_rst hrst⟩⟩

/-- Settles O43: with `rst == 1` the edge neither accepts nor retires, and its effect is to clear VALID. -/
theorem resetDiscardsWithoutRetiring : Obligations.ResetDiscardsWithoutRetiring := by
  intro s hrst
  refine ⟨s.acceptedNow_eq_nil_iff.mpr (State.not_accepts_of_rst hrst),
    s.retiredNow_eq_nil_iff.mpr (State.not_retires_of_rst hrst), _, step_eq s, ?_⟩
  rw [State.present_r, edgeEffect_of_rst hrst]
  exact ⟨rfl, rfl⟩

/-- Settles O44: `out_valid` is always read (`readOutput_outValid`), and every other port as VALID says
(`readOutput_of_not_valid`, `readOutput_of_valid`). -/
theorem consumerReadsOnlyAValidRecord : Obligations.ConsumerReadsOnlyAValidRecord := by
  refine fun s => ⟨readOutput_outValid s, fun hnot _ => readOutput_of_not_valid hnot, fun hvalid => ?_⟩
  have hkind {kind : Kind} := readOutput_outKind hvalid (kind := kind)
  have hread := readOutput_of_valid hvalid
  exact ⟨hkind, hkind, hkind, hkind, hread .outKind, hread .outTlm, hread .outCrcRx, hread .outCrcCalc,
    hread .outCrcOk, hread .outCode, hread .outValue, hread .outPct, hread .outPctRem, hread .outWord,
    hread .outTsStart, hread .outTsEnd⟩

/-- Settles O47: VALID and the parameters are `State.reset`'s own, an empty register is ready whenever there is no
reset (`State.inReady_iff`), and the invariant holds (`State.inv_reset`). -/
theorem resetStateAcceptsAtOnce : Obligations.ResetStateAcceptsAtOnce :=
  ⟨rfl, rfl, fun _ hrst => (State.inReady_iff _).mpr ⟨hrst, .inl rfl⟩, State.inv_reset⟩

end Sys2Proof.Machine

/-! ## The canonical capture (spec/40_bit_recovery.md R107): every bit of FRAME, on the taps and between them -/

namespace Sys2Proof.Machine

/-- All 48 bits of the capture are the builder's: none is cut off or overwritten by a later one (`frameBits_bit`). -/
theorem frame_bit (w : Word) (fill : Bool) {k : Nat} (hk : k < 48) :
    (frame w fill).getLsbD k = frameBit w fill k := by
  rw [frame, frameBits_bit w fill (Nat.le_refl 48), decide_eq_true hk, Bool.true_and]

/-- Settles O7: bit `k` of the capture is `frameBit` (`frame_bit`), which asks whether `k` is a multiple of
`Config.oversample = 3`. -/
theorem canonicalCaptureBits : Obligations.CanonicalCaptureBits := by
  intro w fill k hk
  rw [frame_bit w fill hk, frameBit, Config.oversample]

end Sys2Proof.Machine
